-- ==== Sys2Proof/Word.lean ====
section
/-! DEFINITION. The word types of the machine (00_scope.md R5, R7): every quantity is unsigned, so
plain bit vectors serve, and narrowing is always written out where it happens. -/

namespace Sys2Proof

/-- A byte: a general register, a memory cell, a timer (R5). -/
abbrev Byte := BitVec 8

/-- A 16-bit word: an instruction, `I`, `PC`, a stack slot (R5). -/
abbrev Word := BitVec 16

/-- The 12-bit address field `nnn` of an instruction (R91). -/
abbrev Addr12 := BitVec 12

/-- A 4-bit field: a register number `x` or `y`, or the count `n` (R91, R94). -/
abbrev Nibble := BitVec 4

/-- The register number of the flag register `VF` (R22). -/
abbrev flagReg : Nibble := 15#4

end Sys2Proof
end

