-- ==== Sys2Proof/Config.lean ====
section
/-! DEFINITION. What is fixed when a machine is constructed (00_scope.md R6) and the free values the
spec leaves without any law (93_implementation_defined.md U8, U9, U10). The parameters are plain data held
in State, so a statement about every state is a statement about every setting of them. -/

namespace Sys2Proof

/-- `VARIANT`: which quirk policy and which opcode set (R6, R34). -/
inductive Variant where
  | base
  | extended
  deriving DecidableEq, Repr

/-- `STACK_POLICY`: a push on a full stack, a pop on an empty one (R6, R27, R28). -/
inductive StackPolicy where
  | fault
  | legacySilent
  deriving DecidableEq, Repr

/-- `ADDR_POLICY`: a memory access above 0xFFF (R6, R64). -/
inductive AddrPolicy where
  | fault
  | wrap12
  deriving DecidableEq, Repr

/-- `DIGIT_POLICY`: a hex digit or key index above 15 (R6, R162, R180, R199). -/
inductive DigitPolicy where
  | fault
  | mask4
  deriving DecidableEq, Repr

/-- `DRAW16_EDGE`: a 16 by 16 sprite that leaves the grid (R6, R197). -/
inductive Draw16Edge where
  | fault
  | drop
  | wrap
  deriving DecidableEq, Repr

/-- `REG_RESET`: the registers after construction (R6, R42). -/
inductive RegReset where
  | zero
  | undefined
  deriving DecidableEq, Repr

/-- The parameters of R6. No instruction reads or writes them by name and no step changes them (R34). -/
structure Config where
  variant     : Variant
  stackPolicy : StackPolicy
  addrPolicy  : AddrPolicy
  digitPolicy : DigitPolicy
  draw16Edge  : Draw16Edge
  /-- `BIGFONT_BASE`, left OPEN by the spec (R199). -/
  bigFontBase : Word
  regReset    : RegReset
  deriving DecidableEq, Repr

/-- The 16 key levels (10_state.md R37): `true` while the key is pressed. -/
abbrev Machine.Keys := Vector Bool 16

/-- What the driver asks of the core (R9; 70_reset_and_hazards.md R259). -/
inductive Machine.Request where
  /-- One instruction step, with the key levels and the random byte as they stand (R93). -/
  | instruction (keys : Machine.Keys) (rnd : Byte)
  /-- One timer tick (R232). -/
  | tick
  /-- The warm reset (R254). -/
  | reset
  deriving DecidableEq, Repr, Inhabited

/-- Free value: what the driver asks for where State lists no request, drawn at a counter: an instruction
step with any key levels and any random byte, a tick, or a warm reset. No body, so that no schedule is
ruled out and none is assumed (R233, U10). Log 3. -/
opaque Config.freeRequest : Nat → Machine.Request

/-- Free value: the byte a random source presents to an instruction placed for the host's own checks (R38,
U8), drawn at a counter. No body: nothing can be proved of it. Log 5. -/
opaque Config.rndByte : Nat → Byte

/-- Free value: register `i` after the construction or reset numbered by the first argument, under
`REG_RESET = undefined` (R42, U9). Log 7. -/
opaque Config.freeReg : Nat → Nat → Byte

/-- Free value: `I` under `REG_RESET = undefined` (R42, U9). Log 7. -/
opaque Config.freeIndex : Nat → Word

/-- Free value: stack slot `i` under `REG_RESET = undefined` (R42, U9). Log 7. -/
opaque Config.freeSlot : Nat → Nat → Word

end Sys2Proof
end

