-- ==== Sys2Proof/Syntax.lean ====
section
/-! DEFINITION. The instructions: one constructor per row of the opcode map (30_encoding.md R96), in
the map's order, with the operands its format names (R92). -/

namespace Sys2Proof

inductive Instr where
  /-- SCD n, 00Cn, extended only (R190). -/
  | scd (n : Nibble)
  /-- CLS, 00E0 (R171). -/
  | cls
  /-- RET, 00EE (R123). -/
  | ret
  /-- SCR, 00FB, extended only (R191). -/
  | scr
  /-- SCL, 00FC, extended only (R192). -/
  | scl
  /-- EXIT, 00FD, extended only (R194). -/
  | exitReq
  /-- LOW, 00FE, extended only (R195). -/
  | low
  /-- HIGH, 00FF, extended only (R196). -/
  | high
  /-- SYS nnn, 0nnn (R120). -/
  | sys (nnn : Addr12)
  /-- JP nnn, 1nnn (R121). -/
  | jp (nnn : Addr12)
  /-- CALL nnn, 2nnn (R122). -/
  | call (nnn : Addr12)
  /-- SE Vx,nn, 3xnn (R124). -/
  | seImm (x : Nibble) (nn : Byte)
  /-- SNE Vx,nn, 4xnn (R125). -/
  | sneImm (x : Nibble) (nn : Byte)
  /-- SE Vx,Vy, 5xy0 (R126). -/
  | seReg (x y : Nibble)
  /-- LD Vx,nn, 6xnn (R141). -/
  | ldImm (x : Nibble) (nn : Byte)
  /-- ADD Vx,nn, 7xnn (R142). -/
  | addImm (x : Nibble) (nn : Byte)
  /-- LD Vx,Vy, 8xy0 (R143). -/
  | ldReg (x y : Nibble)
  /-- OR Vx,Vy, 8xy1 (R144). -/
  | orReg (x y : Nibble)
  /-- AND Vx,Vy, 8xy2 (R145). -/
  | andReg (x y : Nibble)
  /-- XOR Vx,Vy, 8xy3 (R146). -/
  | xorReg (x y : Nibble)
  /-- ADD Vx,Vy, 8xy4 (R147). -/
  | addReg (x y : Nibble)
  /-- SUB Vx,Vy, 8xy5 (R148). -/
  | subReg (x y : Nibble)
  /-- SHR Vx,Vy, 8xy6 (R149). -/
  | shr (x y : Nibble)
  /-- SUBN Vx,Vy, 8xy7 (R150). -/
  | subn (x y : Nibble)
  /-- SHL Vx,Vy, 8xyE (R151). -/
  | shl (x y : Nibble)
  /-- SNE Vx,Vy, 9xy0 (R127). -/
  | sneReg (x y : Nibble)
  /-- LD I,nnn, Annn (R160). -/
  | ldI (nnn : Addr12)
  /-- JP V0,nnn, Bnnn (R128); its `x` is `nnn[11:8]`. -/
  | jpV0 (nnn : Addr12)
  /-- RND Vx,nn, Cxnn (R152). -/
  | rnd (x : Nibble) (nn : Byte)
  /-- DRW Vx,Vy,0, Dxy0, extended only: the 16 by 16 draw (R197). -/
  | drw16 (x y : Nibble)
  /-- DRW Vx,Vy,n, Dxyn (R172). -/
  | drw (x y n : Nibble)
  /-- SKP Vx, Ex9E (R181). -/
  | skp (x : Nibble)
  /-- SKNP Vx, ExA1 (R182). -/
  | sknp (x : Nibble)
  /-- LD Vx,DT, Fx07 (R184). -/
  | ldVxDt (x : Nibble)
  /-- LD Vx,K, Fx0A (R183). -/
  | ldVxK (x : Nibble)
  /-- LD DT,Vx, Fx15 (R185). -/
  | ldDtVx (x : Nibble)
  /-- LD ST,Vx, Fx18 (R186). -/
  | ldStVx (x : Nibble)
  /-- ADD I,Vx, Fx1E (R161). -/
  | addI (x : Nibble)
  /-- LD F,Vx, Fx29 (R162). -/
  | ldF (x : Nibble)
  /-- LD HF,Vx, Fx30, extended only (R199). -/
  | ldHf (x : Nibble)
  /-- LD B,Vx, Fx33 (R163). -/
  | ldB (x : Nibble)
  /-- LD [I],Vx, Fx55 (R164). -/
  | storeRegs (x : Nibble)
  /-- LD Vx,[I], Fx65 (R165). -/
  | loadRegs (x : Nibble)
  /-- LD R,Vx, Fx75, extended only (R200). -/
  | storeRpl (x : Nibble)
  /-- LD Vx,R, Fx85, extended only (R201). -/
  | loadRpl (x : Nibble)
  deriving DecidableEq, Repr

end Sys2Proof
end

