-- ==== Sys2Proof/WellFormed.lean ====
section
/-! DEFINITION. Which terms of Instr are instructions of which machine (30_encoding.md R95, R96). The
operand types already bound every field; what is left is the variant column and the two places where
the encodings of two rows overlap: opcode 0 and Dxy0. -/

namespace Sys2Proof

/-- The rows marked "extended" in R96. -/
def Instr.extendedOnly : Instr → Bool
  | .scd _ | .scr | .scl | .exitReq | .low | .high | .drw16 _ _ | .ldHf _ | .storeRpl _ | .loadRpl _ => true
  | .cls | .ret | .sys _ | .jp _ | .call _ | .seImm _ _ | .sneImm _ _ | .seReg _ _ | .ldImm _ _
  | .addImm _ _ | .ldReg _ _ | .orReg _ _ | .andReg _ _ | .xorReg _ _ | .addReg _ _ | .subReg _ _
  | .shr _ _ | .subn _ _ | .shl _ _ | .sneReg _ _ | .ldI _ | .jpV0 _ | .rnd _ _ | .drw _ _ _
  | .skp _ | .sknp _ | .ldVxDt _ | .ldVxK _ | .ldDtVx _ | .ldStVx _ | .addI _ | .ldF _ | .ldB _
  | .storeRegs _ | .loadRegs _ => false

/-- An operand `nnn` that a more specific row of opcode 0 takes: CLS and RET on both machines; SCD,
SCR, SCL, EXIT, LOW and HIGH on the extended one (R95, R120). -/
def sysTaken (v : Variant) (nnn : Addr12) : Bool :=
  nnn == 0x0E0#12 || nnn == 0x0EE#12 ||
    (v == .extended &&
      (nnn.extractLsb' 4 8 == 0x0C#8 || nnn == 0x0FB#12 || nnn == 0x0FC#12 || nnn == 0x0FD#12 ||
        nnn == 0x0FE#12 || nnn == 0x0FF#12))

/-- `i` is an instruction of the machine of variant `v` (R95, R96). -/
def wellFormed (v : Variant) (i : Instr) : Bool :=
  match i with
  | .sys nnn => !sysTaken v nnn
  | .drw _ _ n => v == .base || n != 0#4
  | i => v == .extended || !i.extendedOnly

end Sys2Proof
end

