-- ==== Sys2Proof/Decode.lean ====
section
/-! DEFINITION. The decoder (30_encoding.md R91, R95, R97), then the encoder and the opcode map (R96).
Every number is the spec's, which marks all of them as general knowledge (decision D1, log 10). -/

namespace Sys2Proof

/-- The record of R91. -/
structure Fields where
  op  : Nibble
  x   : Nibble
  y   : Nibble
  n   : Nibble
  nn  : Byte
  nnn : Addr12
  deriving DecidableEq, Repr

/-- R91: the fields overlap, `nnn = x ++ y ++ n` and `nn = y ++ n`. -/
def fields (w : Word) : Fields where
  op  := w.extractLsb' 12 4
  x   := w.extractLsb' 8 4
  y   := w.extractLsb' 4 4
  n   := w.extractLsb' 0 4
  nn  := w.extractLsb' 0 8
  nnn := w.extractLsb' 0 12

/-- Why bytes are no instruction. -/
inductive Reject where
  /-- The word matches no row for this variant (R97). -/
  | unknownInstruction (w : Word)
  /-- Fewer than two bytes are left: no instruction is shorter than a word (R90). -/
  | truncated
  deriving DecidableEq, Repr

/-- Opcode 0: the fully fixed rows before SYS (R95). -/
def decodeOp0 (v : Variant) (f : Fields) : Instr :=
  if f.nnn = 0x0E0#12 then .cls
  else if f.nnn = 0x0EE#12 then .ret
  else if v = .base then .sys f.nnn
  else if f.nnn = 0x0FB#12 then .scr
  else if f.nnn = 0x0FC#12 then .scl
  else if f.nnn = 0x0FD#12 then .exitReq
  else if f.nnn = 0x0FE#12 then .low
  else if f.nnn = 0x0FF#12 then .high
  else if f.nnn.extractLsb' 4 8 = 0x0C#8 then .scd f.n
  else .sys f.nnn

/-- Opcode 8: the register operations, selected by `n`. -/
def decodeOp8 (f : Fields) : Option Instr :=
  if f.n = 0x0#4 then some (.ldReg f.x f.y)
  else if f.n = 0x1#4 then some (.orReg f.x f.y)
  else if f.n = 0x2#4 then some (.andReg f.x f.y)
  else if f.n = 0x3#4 then some (.xorReg f.x f.y)
  else if f.n = 0x4#4 then some (.addReg f.x f.y)
  else if f.n = 0x5#4 then some (.subReg f.x f.y)
  else if f.n = 0x6#4 then some (.shr f.x f.y)
  else if f.n = 0x7#4 then some (.subn f.x f.y)
  else if f.n = 0xE#4 then some (.shl f.x f.y)
  else none

/-- Opcode E: the key queries, selected by `nn`. -/
def decodeOpE (f : Fields) : Option Instr :=
  if f.nn = 0x9E#8 then some (.skp f.x)
  else if f.nn = 0xA1#8 then some (.sknp f.x)
  else none

/-- Opcode F, selected by `nn`; three rows are the extended machine's. -/
def decodeOpF (v : Variant) (f : Fields) : Option Instr :=
  if f.nn = 0x07#8 then some (.ldVxDt f.x)
  else if f.nn = 0x0A#8 then some (.ldVxK f.x)
  else if f.nn = 0x15#8 then some (.ldDtVx f.x)
  else if f.nn = 0x18#8 then some (.ldStVx f.x)
  else if f.nn = 0x1E#8 then some (.addI f.x)
  else if f.nn = 0x29#8 then some (.ldF f.x)
  else if f.nn = 0x33#8 then some (.ldB f.x)
  else if f.nn = 0x55#8 then some (.storeRegs f.x)
  else if f.nn = 0x65#8 then some (.loadRegs f.x)
  else if v = .base then none
  else if f.nn = 0x30#8 then some (.ldHf f.x)
  else if f.nn = 0x75#8 then some (.storeRpl f.x)
  else if f.nn = 0x85#8 then some (.loadRpl f.x)
  else none

/-- The selection of R95 on the fields of a word; `none` where no row matches (R97). -/
def decodeFields (v : Variant) (f : Fields) : Option Instr :=
  match f.op.toNat with
  | 0x0 => some (decodeOp0 v f)
  | 0x1 => some (.jp f.nnn)
  | 0x2 => some (.call f.nnn)
  | 0x3 => some (.seImm f.x f.nn)
  | 0x4 => some (.sneImm f.x f.nn)
  | 0x5 => if f.n = 0#4 then some (.seReg f.x f.y) else none
  | 0x6 => some (.ldImm f.x f.nn)
  | 0x7 => some (.addImm f.x f.nn)
  | 0x8 => decodeOp8 f
  | 0x9 => if f.n = 0#4 then some (.sneReg f.x f.y) else none
  | 0xA => some (.ldI f.nnn)
  | 0xB => some (.jpV0 f.nnn)
  | 0xC => some (.rnd f.x f.nn)
  | 0xD => if v = .extended ∧ f.n = 0#4 then some (.drw16 f.x f.y) else some (.drw f.x f.y f.n)
  | 0xE => decodeOpE f
  | _ => decodeOpF v f

/-- The instruction a word is on the machine of variant `v`, or the name of its rejection (R95, R97). -/
def decode (v : Variant) (w : Word) : Except Reject Instr :=
  match decodeFields v (fields w) with
  | some i => .ok i
  | none => .error (.unknownInstruction w)

/-- The instruction at the head of a byte sequence and the bytes after it; the byte at the lower
address is the high byte of the word (R65, R90). -/
def decodeBytes (v : Variant) : List Byte → Except Reject (Instr × List Byte)
  | hi :: lo :: rest =>
    match decode v (hi ++ lo) with
    | .ok i => .ok (i, rest)
    | .error e => .error e
  | _ => .error .truncated

/-- The two bytes of a word as memory holds them, the high byte first (R65). -/
def wordBytes (w : Word) : List Byte := [w.extractLsb' 8 8, w.extractLsb' 0 8]

/-- The instruction the decoder reads from the table word `w` of `nbits` bits, on the extended
machine, whose opcode map holds all 45 rows (R96). -/
def decodeTableWord (nbits w : Nat) : Option Instr :=
  match decodeBytes .extended (wordBytes (BitVec.ofNat 16 (w % 2 ^ nbits))) with
  | .ok (i, _) => some i
  | .error _ => none

/-- The word of an instruction (R96). -/
def encode : Instr → Word
  | .scd n => 0x00C#12 ++ n
  | .cls => 0x00E0#16
  | .ret => 0x00EE#16
  | .scr => 0x00FB#16
  | .scl => 0x00FC#16
  | .exitReq => 0x00FD#16
  | .low => 0x00FE#16
  | .high => 0x00FF#16
  | .sys nnn => 0x0#4 ++ nnn
  | .jp nnn => 0x1#4 ++ nnn
  | .call nnn => 0x2#4 ++ nnn
  | .seImm x nn => 0x3#4 ++ x ++ nn
  | .sneImm x nn => 0x4#4 ++ x ++ nn
  | .seReg x y => 0x5#4 ++ x ++ y ++ 0x0#4
  | .ldImm x nn => 0x6#4 ++ x ++ nn
  | .addImm x nn => 0x7#4 ++ x ++ nn
  | .ldReg x y => 0x8#4 ++ x ++ y ++ 0x0#4
  | .orReg x y => 0x8#4 ++ x ++ y ++ 0x1#4
  | .andReg x y => 0x8#4 ++ x ++ y ++ 0x2#4
  | .xorReg x y => 0x8#4 ++ x ++ y ++ 0x3#4
  | .addReg x y => 0x8#4 ++ x ++ y ++ 0x4#4
  | .subReg x y => 0x8#4 ++ x ++ y ++ 0x5#4
  | .shr x y => 0x8#4 ++ x ++ y ++ 0x6#4
  | .subn x y => 0x8#4 ++ x ++ y ++ 0x7#4
  | .shl x y => 0x8#4 ++ x ++ y ++ 0xE#4
  | .sneReg x y => 0x9#4 ++ x ++ y ++ 0x0#4
  | .ldI nnn => 0xA#4 ++ nnn
  | .jpV0 nnn => 0xB#4 ++ nnn
  | .rnd x nn => 0xC#4 ++ x ++ nn
  | .drw16 x y => 0xD#4 ++ x ++ y ++ 0x0#4
  | .drw x y n => 0xD#4 ++ x ++ y ++ n
  | .skp x => 0xE#4 ++ x ++ 0x9E#8
  | .sknp x => 0xE#4 ++ x ++ 0xA1#8
  | .ldVxDt x => 0xF#4 ++ x ++ 0x07#8
  | .ldVxK x => 0xF#4 ++ x ++ 0x0A#8
  | .ldDtVx x => 0xF#4 ++ x ++ 0x15#8
  | .ldStVx x => 0xF#4 ++ x ++ 0x18#8
  | .addI x => 0xF#4 ++ x ++ 0x1E#8
  | .ldF x => 0xF#4 ++ x ++ 0x29#8
  | .ldHf x => 0xF#4 ++ x ++ 0x30#8
  | .ldB x => 0xF#4 ++ x ++ 0x33#8
  | .storeRegs x => 0xF#4 ++ x ++ 0x55#8
  | .loadRegs x => 0xF#4 ++ x ++ 0x65#8
  | .storeRpl x => 0xF#4 ++ x ++ 0x75#8
  | .loadRpl x => 0xF#4 ++ x ++ 0x85#8

/-- One row of the opcode map: its fixed bits, their values, and whether the row is the extended
machine's alone (R96). -/
structure OpRow where
  mask     : Word
  value    : Word
  extended : Bool
  deriving DecidableEq, Repr

/-- The row each instruction belongs to (R96). -/
def Instr.row : Instr → OpRow
  | .scd _ => ⟨0xFFF0#16, 0x00C0#16, true⟩
  | .cls => ⟨0xFFFF#16, 0x00E0#16, false⟩
  | .ret => ⟨0xFFFF#16, 0x00EE#16, false⟩
  | .scr => ⟨0xFFFF#16, 0x00FB#16, true⟩
  | .scl => ⟨0xFFFF#16, 0x00FC#16, true⟩
  | .exitReq => ⟨0xFFFF#16, 0x00FD#16, true⟩
  | .low => ⟨0xFFFF#16, 0x00FE#16, true⟩
  | .high => ⟨0xFFFF#16, 0x00FF#16, true⟩
  | .sys _ => ⟨0xF000#16, 0x0000#16, false⟩
  | .jp _ => ⟨0xF000#16, 0x1000#16, false⟩
  | .call _ => ⟨0xF000#16, 0x2000#16, false⟩
  | .seImm _ _ => ⟨0xF000#16, 0x3000#16, false⟩
  | .sneImm _ _ => ⟨0xF000#16, 0x4000#16, false⟩
  | .seReg _ _ => ⟨0xF00F#16, 0x5000#16, false⟩
  | .ldImm _ _ => ⟨0xF000#16, 0x6000#16, false⟩
  | .addImm _ _ => ⟨0xF000#16, 0x7000#16, false⟩
  | .ldReg _ _ => ⟨0xF00F#16, 0x8000#16, false⟩
  | .orReg _ _ => ⟨0xF00F#16, 0x8001#16, false⟩
  | .andReg _ _ => ⟨0xF00F#16, 0x8002#16, false⟩
  | .xorReg _ _ => ⟨0xF00F#16, 0x8003#16, false⟩
  | .addReg _ _ => ⟨0xF00F#16, 0x8004#16, false⟩
  | .subReg _ _ => ⟨0xF00F#16, 0x8005#16, false⟩
  | .shr _ _ => ⟨0xF00F#16, 0x8006#16, false⟩
  | .subn _ _ => ⟨0xF00F#16, 0x8007#16, false⟩
  | .shl _ _ => ⟨0xF00F#16, 0x800E#16, false⟩
  | .sneReg _ _ => ⟨0xF00F#16, 0x9000#16, false⟩
  | .ldI _ => ⟨0xF000#16, 0xA000#16, false⟩
  | .jpV0 _ => ⟨0xF000#16, 0xB000#16, false⟩
  | .rnd _ _ => ⟨0xF000#16, 0xC000#16, false⟩
  | .drw16 _ _ => ⟨0xF00F#16, 0xD000#16, true⟩
  | .drw _ _ _ => ⟨0xF000#16, 0xD000#16, false⟩
  | .skp _ => ⟨0xF0FF#16, 0xE09E#16, false⟩
  | .sknp _ => ⟨0xF0FF#16, 0xE0A1#16, false⟩
  | .ldVxDt _ => ⟨0xF0FF#16, 0xF007#16, false⟩
  | .ldVxK _ => ⟨0xF0FF#16, 0xF00A#16, false⟩
  | .ldDtVx _ => ⟨0xF0FF#16, 0xF015#16, false⟩
  | .ldStVx _ => ⟨0xF0FF#16, 0xF018#16, false⟩
  | .addI _ => ⟨0xF0FF#16, 0xF01E#16, false⟩
  | .ldF _ => ⟨0xF0FF#16, 0xF029#16, false⟩
  | .ldHf _ => ⟨0xF0FF#16, 0xF030#16, true⟩
  | .ldB _ => ⟨0xF0FF#16, 0xF033#16, false⟩
  | .storeRegs _ => ⟨0xF0FF#16, 0xF055#16, false⟩
  | .loadRegs _ => ⟨0xF0FF#16, 0xF065#16, false⟩
  | .storeRpl _ => ⟨0xF0FF#16, 0xF075#16, true⟩
  | .loadRpl _ => ⟨0xF0FF#16, 0xF085#16, true⟩

/-- The rows of R96 as the spec lists them, in its order. -/
def opcodeMap : List OpRow :=
  [⟨0xFFF0#16, 0x00C0#16, true⟩, ⟨0xFFFF#16, 0x00E0#16, false⟩, ⟨0xFFFF#16, 0x00EE#16, false⟩,
   ⟨0xFFFF#16, 0x00FB#16, true⟩, ⟨0xFFFF#16, 0x00FC#16, true⟩, ⟨0xFFFF#16, 0x00FD#16, true⟩,
   ⟨0xFFFF#16, 0x00FE#16, true⟩, ⟨0xFFFF#16, 0x00FF#16, true⟩] ++
  [⟨0xF000#16, 0x0000#16, false⟩, ⟨0xF000#16, 0x1000#16, false⟩, ⟨0xF000#16, 0x2000#16, false⟩,
   ⟨0xF000#16, 0x3000#16, false⟩, ⟨0xF000#16, 0x4000#16, false⟩, ⟨0xF00F#16, 0x5000#16, false⟩,
   ⟨0xF000#16, 0x6000#16, false⟩, ⟨0xF000#16, 0x7000#16, false⟩] ++
  [⟨0xF00F#16, 0x8000#16, false⟩, ⟨0xF00F#16, 0x8001#16, false⟩, ⟨0xF00F#16, 0x8002#16, false⟩,
   ⟨0xF00F#16, 0x8003#16, false⟩, ⟨0xF00F#16, 0x8004#16, false⟩, ⟨0xF00F#16, 0x8005#16, false⟩,
   ⟨0xF00F#16, 0x8006#16, false⟩, ⟨0xF00F#16, 0x8007#16, false⟩, ⟨0xF00F#16, 0x800E#16, false⟩] ++
  [⟨0xF00F#16, 0x9000#16, false⟩, ⟨0xF000#16, 0xA000#16, false⟩, ⟨0xF000#16, 0xB000#16, false⟩,
   ⟨0xF000#16, 0xC000#16, false⟩, ⟨0xF00F#16, 0xD000#16, true⟩, ⟨0xF000#16, 0xD000#16, false⟩,
   ⟨0xF0FF#16, 0xE09E#16, false⟩, ⟨0xF0FF#16, 0xE0A1#16, false⟩] ++
  [⟨0xF0FF#16, 0xF007#16, false⟩, ⟨0xF0FF#16, 0xF00A#16, false⟩, ⟨0xF0FF#16, 0xF015#16, false⟩,
   ⟨0xF0FF#16, 0xF018#16, false⟩, ⟨0xF0FF#16, 0xF01E#16, false⟩, ⟨0xF0FF#16, 0xF029#16, false⟩,
   ⟨0xF0FF#16, 0xF030#16, true⟩, ⟨0xF0FF#16, 0xF033#16, false⟩, ⟨0xF0FF#16, 0xF055#16, false⟩,
   ⟨0xF0FF#16, 0xF065#16, false⟩, ⟨0xF0FF#16, 0xF075#16, true⟩, ⟨0xF0FF#16, 0xF085#16, true⟩]

/-- A row's variant column admits `v` (R95, R96). -/
def OpRow.admits (r : OpRow) (v : Variant) : Bool := v == .extended || !r.extended

/-- The fixed bits of the row equal the word's: `(word & mask) = match` (R95). -/
def OpRow.matchesWord (r : OpRow) (w : Word) : Bool := w &&& r.mask == r.value

/-- How many bits the row fixes (R95). -/
def OpRow.fixedBits (r : OpRow) : Nat := ((List.range 16).filter r.mask.getLsbD).length

/-- The first row, from the top, that admits the variant and matches: by R95 the same row as the
matching row with the most fixed bits. -/
def selectRow (v : Variant) (w : Word) : Option OpRow :=
  opcodeMap.find? fun r => r.admits v && r.matchesWord w

end Sys2Proof
end

