-- ==== Sys2Proof/Machine/Defaults.lean ====
section
/-! DEFINITION. The parameter values of State.reset (00_scope.md R6) and the fixed numbers of R5 that
the construction state uses. -/

namespace Sys2Proof.Machine

/-- The parameters of State.reset: the spec's defaults (R6); the variant, which R6 leaves to the host,
is the extended machine (DESIGN CHOICE, log 1); `BIGFONT_BASE` is the value R6 recommends (DESIGN
CHOICE, log 6). -/
def defaultConfig : Config where
  variant     := .extended
  stackPolicy := .fault
  addrPolicy  := .fault
  digitPolicy := .fault
  draw16Edge  := .fault
  bigFontBase := 0x050#16
  regReset    := .zero

/-- The program base and the entry point (R5, R42). -/
def programBase : Nat := 0x200

/-- The longest program: 4096 - 0x200 bytes (R5, R251). -/
def maxProgram : Nat := 3584

/-- The value a register, `I` and a stack slot take at construction number `epoch` (R42): zero, or a
free value under `REG_RESET = undefined`. -/
def initReg (c : Config) (epoch i : Nat) : Byte :=
  match c.regReset with
  | .zero => 0#8
  | .undefined => Config.freeReg epoch i

/-- `I` at construction number `epoch` (R42). -/
def initIndex (c : Config) (epoch : Nat) : Word :=
  match c.regReset with
  | .zero => 0#16
  | .undefined => Config.freeIndex epoch

/-- Stack slot `i` at construction number `epoch` (R42). -/
def initSlot (c : Config) (epoch i : Nat) : Word :=
  match c.regReset with
  | .zero => 0#16
  | .undefined => Config.freeSlot epoch i

end Sys2Proof.Machine
end

