-- ==== Sys2Proof/Machine/State.lean ====
section
/-! DEFINITION. The state of one machine instance (10_state.md R20): plain data, every element the spec
names, the host's inputs and requests beside it, and the state after construction (R42). -/

namespace Sys2Proof.Machine

/-- Memory (R60): (address, byte) pairs in one canonical form, `Mem.wf` of Machine/Memory.lean
(log 13). -/
abbrev Mem := List Host.Cell

/-- A pixel's place: column `cx` from the left, row `cy` from the top (R31). -/
structure Pixel where
  cx : Nat
  cy : Nat
  deriving DecidableEq, Repr

/-- The framebuffer (R31): width, height and the set pixels, row by row from the top and from the left
within a row. A place not listed is clear (log 13). -/
structure Framebuffer where
  w   : Nat
  h   : Nat
  lit : List Pixel
  deriving DecidableEq, Repr

/-- A diagnostic notice (R221): it stops nothing. -/
inductive Notice where
  /-- A word no row of the opcode map admits, and its fetch address (R97). -/
  | unknownInstruction (word a : Word)
  /-- SYS: a call to a host routine, and its fetch address (R120). -/
  | unimplementedProgramCall (nnn : Addr12) (a : Word)
  deriving DecidableEq, Repr

/-- The output events of the latest step (R39). No step reads them (DESIGN CHOICE, log 9). -/
structure Signals where
  /-- `diag`. -/
  diag        : Option Notice
  /-- `exit_req`. -/
  exitReq     : Bool
  /-- `tone_stopped`. -/
  toneStopped : Bool
  deriving DecidableEq, Repr

/-- No output event. -/
def noSignals : Signals := { diag := none, exitReq := false, toneStopped := false }

/-- The machine's state (R20), the parameters (R6), the inputs as they stand (R37, R38), the outputs of
the latest step (R39), and two fields of the model's own: `requests` and `fresh`. -/
structure State where
  /-- The parameters, fixed at construction (R6, R34). -/
  cfg      : Config
  /-- `MEM` (R60). -/
  mem      : Mem
  /-- `V[0]` to `V[15]` (R21). -/
  v        : Vector Byte 16
  /-- `I` (R23). -/
  idx      : Word
  /-- `PC`: between steps the address of the next instruction (R24). -/
  pc       : Word
  /-- `STK[0]` to `STK[15]` (R25). -/
  stk      : Vector Word 16
  /-- `SP`: how many return addresses are held, 0 to 16 (R26). -/
  sp       : Fin 17
  /-- `DT` (R29). -/
  dt       : Byte
  /-- `ST` (R29). -/
  st       : Byte
  /-- `HIRES` (R32). -/
  hires    : Bool
  /-- `W`, `H` and `FB` (R31). -/
  fb       : Framebuffer
  /-- `RPL[0]` to `RPL[7]` (R33). -/
  rpl      : Vector Byte 8
  /-- `KWAIT` (R35). -/
  kwait    : Option (Fin 16)
  /-- `HALTED` (R36). -/
  halted   : Bool
  /-- `KEY[0]` to `KEY[15]` as they stand (R37); all up at reset, DESIGN CHOICE, log 4. -/
  keys     : Keys
  /-- `rnd`, the byte presented to the current instruction step (R38). -/
  rnd      : Byte
  /-- The output events of the latest step (R39). -/
  out      : Signals
  /-- The driver's next requests, where they are known, the next one first; after them every request is a
  free value. The model's own field (R9, R233; log 3). -/
  requests : List Request
  /-- The counter at which free values are drawn. The model's own field (U8, U9, U10; logs 3, 5 and 7). -/
  fresh    : Nat
  deriving DecidableEq, Repr

/-- Why a step has no successor state (R220, R224): the condition, its info, and the fetch address `a`.
Nothing of the step is kept. -/
inductive Fault where
  /-- CALL with 16 entries on the stack under `STACK_POLICY = fault`; `value` is the address not pushed
  (R27). Safe: the spec asks for exactly this stop. -/
  | stackOverflow (value a : Word)
  /-- RET with an empty stack under `STACK_POLICY = fault` (R28). Safe: the spec asks for this stop. -/
  | stackUnderflow (a : Word)
  /-- Fetch, DRW, DRW Vx,Vy,0, LD B, LD [I],Vx, LD Vx,[I]: an access at `addr` above 0xFFF under
  `ADDR_POLICY = fault` (R64). Safe: the machine stops where the spec gives no value. -/
  | addressRange (addr : Nat) (a : Word)
  /-- LD F, LD HF, SKP, SKNP: `V[x] = value` above 15 under `DIGIT_POLICY = fault` (R162, R180, R199).
  Safe: the machine stops where the spec gives no value. -/
  | operandRange (value : Byte) (a : Word)
  /-- DRW Vx,Vy,0: the 16 by 16 rectangle at (x0, y0) leaves the grid under `DRAW16_EDGE = fault`
  (R197). Safe: the machine stops where the spec gives no value. -/
  | framebufferRange (x0 y0 : Nat) (a : Word)
  deriving DecidableEq, Repr

/-- Why an instruction has no meaning. -/
inductive Refusal where
  /-- An arm of exec that has no meaning yet; no arm raises it. Safe: nothing is claimed of such a step. -/
  | notModelled (mnemonic : String)
  deriving DecidableEq, Repr

/-- The state after the construction or reset numbered `epoch`, with no program (R42). -/
def State.initial (c : Config) (epoch : Nat) : State where
  cfg      := c
  mem      := []
  v        := Vector.ofFn fun i => initReg c epoch i.val
  idx      := initIndex c epoch
  pc       := BitVec.ofNat 16 programBase
  stk      := Vector.ofFn fun i => initSlot c epoch i.val
  sp       := 0
  dt       := 0#8
  st       := 0#8
  hires    := false
  fb       := { w := 64, h := 32, lit := [] }
  rpl      := Vector.replicate 8 0#8
  kwait    := none
  halted   := false
  keys     := Vector.replicate 16 false
  rnd      := 0#8
  out      := noSignals
  requests := []
  fresh    := epoch + 1

/-- The machine right after construction with the default parameters and an empty program (R42, R250). -/
def State.reset : State := State.initial defaultConfig 0

end Sys2Proof.Machine
end

