-- ==== Sys2Proof/Machine/Framebuffer.lean ====
section
/-! DEFINITION. The framebuffer controller (43_display.md R170), sprites as lists of pixels, the XOR
draw of R172 and R197, and the scrolls of R190 to R192. -/

namespace Sys2Proof.Machine

/-- Row-major order: an earlier row first, within a row an earlier column first. -/
def Pixel.before (p q : Pixel) : Bool := decide (p.cy < q.cy) || (p.cy == q.cy && decide (p.cx < q.cx))

/-- `get` (R170): whether the pixel is set. -/
def Framebuffer.get (fb : Framebuffer) (cx cy : Nat) : Bool :=
  fb.lit.any fun p => p.cx == cx && p.cy == cy

/-- Place a pixel before the first pixel that does not come before it. -/
def Pixel.insert (p : Pixel) : List Pixel → List Pixel
  | [] => [p]
  | q :: rest => if p.before q then p :: q :: rest else q :: Pixel.insert p rest

/-- `set` (R170). -/
def Framebuffer.set (fb : Framebuffer) (cx cy : Nat) (b : Bool) : Framebuffer :=
  let others := fb.lit.filter fun p => !(p.cx == cx && p.cy == cy)
  { fb with lit := if b then Pixel.insert { cx := cx, cy := cy } others else others }

/-- `clear` (R170): every pixel false, the dimensions unchanged. -/
def Framebuffer.clear (fb : Framebuffer) : Framebuffer := { fb with lit := [] }

/-- `replace` (R170): a new grid of the given dimensions, every pixel false. -/
def Framebuffer.replace (w h : Nat) : Framebuffer := { w := w, h := h, lit := [] }

/-- Legal dimensions, and the set pixels inside the grid, in row-major order without repeats (R31, R32). -/
def Framebuffer.wf (fb : Framebuffer) : Bool :=
  ((fb.w == 64 && fb.h == 32) || (fb.w == 128 && fb.h == 64)) &&
    fb.lit.all (fun p => decide (p.cx < fb.w) && decide (p.cy < fb.h)) &&
    decide (fb.lit.Pairwise fun p q => p.before q = true)

/-- The columns of the set bits of a sprite row, the most significant bit leftmost (R172, R197). -/
def rowColumns {k : Nat} (row : BitVec k) : List Nat := (List.range k).filter row.getMsbD

/-- The pixels of a sprite's set bits, its top left corner at (x0, y0), rows downward, not clipped (R172,
R197). -/
def spritePixels {k : Nat} (x0 : Nat) : Nat → List (BitVec k) → List Pixel
  | _, [] => []
  | y0, row :: rest =>
    (rowColumns row).map (fun c => { cx := x0 + c, cy := y0 }) ++ spritePixels x0 (y0 + 1) rest

/-- Drop the pixels beyond the right and bottom edges (R172). -/
def Framebuffer.clip (fb : Framebuffer) (ps : List Pixel) : List Pixel :=
  ps.filter fun p => decide (p.cx < fb.w) && decide (p.cy < fb.h)

/-- Take every coordinate modulo the dimensions (R197, `wrap`). -/
def Framebuffer.wrap (fb : Framebuffer) (ps : List Pixel) : List Pixel :=
  ps.map fun p => { cx := p.cx % fb.w, cy := p.cy % fb.h }

/-- One set sprite bit on the grid: a set pixel is cleared and is a collision, a clear pixel is set (R172). -/
def Framebuffer.plot (g : Framebuffer × Bool) (p : Pixel) : Framebuffer × Bool :=
  if g.1.get p.cx p.cy then (g.1.set p.cx p.cy false, true) else (g.1.set p.cx p.cy true, g.2)

/-- The loop of R172 and R197: the grid after the draw, and whether any pixel went from set to clear. -/
def Framebuffer.draw (fb : Framebuffer) (ps : List Pixel) : Framebuffer × Bool :=
  ps.foldl Framebuffer.plot (fb, false)

/-- SCD (R190): rows move down by `n`, the top `n` rows end clear. -/
def Framebuffer.scrollDown (fb : Framebuffer) (n : Nat) : Framebuffer :=
  { fb with
    lit := (fb.lit.filter fun p => decide (p.cy + n < fb.h)).map fun p => { cx := p.cx, cy := p.cy + n } }

/-- SCR (R191): columns move right by 4, the left 4 columns end clear. -/
def Framebuffer.scrollRight (fb : Framebuffer) : Framebuffer :=
  { fb with
    lit := (fb.lit.filter fun p => decide (p.cx + 4 < fb.w)).map fun p => { cx := p.cx + 4, cy := p.cy } }

/-- SCL (R192): columns move left by 4, the right 4 columns end clear. -/
def Framebuffer.scrollLeft (fb : Framebuffer) : Framebuffer :=
  { fb with
    lit := (fb.lit.filter fun p => decide (4 ≤ p.cx) && decide (p.cx < fb.w)).map
      fun p => { cx := p.cx - 4, cy := p.cy } }

end Sys2Proof.Machine
end

