-- ==== Sys2Proof/Machine/Memory.lean ====
section
/-! DEFINITION. Memory as data (20_memory.md R60 to R63, R69): what an address reads as before anything
is written, reading and writing one byte, and the canonical form. -/

namespace Sys2Proof.Machine

/-- The number of bytes of the address space (R60). -/
def memSize : Nat := 4096

/-- Where the small font lies (R60). -/
def fontBase : Nat := 0x050

/-- The 80 font bytes, 16 glyphs of 5 (R69; PRESUMED by the spec, log 8). -/
def fontBytes : List Byte :=
  [0xF0#8, 0x90#8, 0x90#8, 0x90#8, 0xF0#8] ++ [0x20#8, 0x60#8, 0x20#8, 0x20#8, 0x70#8] ++
  [0xF0#8, 0x10#8, 0xF0#8, 0x80#8, 0xF0#8] ++ [0xF0#8, 0x10#8, 0xF0#8, 0x10#8, 0xF0#8] ++
  [0x90#8, 0x90#8, 0xF0#8, 0x10#8, 0x10#8] ++ [0xF0#8, 0x80#8, 0xF0#8, 0x10#8, 0xF0#8] ++
  [0xF0#8, 0x80#8, 0xF0#8, 0x90#8, 0xF0#8] ++ [0xF0#8, 0x10#8, 0x20#8, 0x40#8, 0x40#8] ++
  [0xF0#8, 0x90#8, 0xF0#8, 0x90#8, 0xF0#8] ++ [0xF0#8, 0x90#8, 0xF0#8, 0x10#8, 0xF0#8] ++
  [0xF0#8, 0x90#8, 0xF0#8, 0x90#8, 0x90#8] ++ [0xE0#8, 0x90#8, 0xE0#8, 0x90#8, 0xE0#8] ++
  [0xF0#8, 0x80#8, 0x80#8, 0x80#8, 0xF0#8] ++ [0xE0#8, 0x90#8, 0x90#8, 0x90#8, 0xE0#8] ++
  [0xF0#8, 0x80#8, 0xF0#8, 0x80#8, 0xF0#8] ++ [0xF0#8, 0x80#8, 0xF0#8, 0x80#8, 0x80#8]

/-- What an address nothing has written reads as: the construction contents of R42 and R61, the font
and zeros. -/
def initByte (a : Nat) : Byte :=
  if fontBase ≤ a then fontBytes.getD (a - fontBase) 0#8 else 0#8

/-- The byte at `a` (R62). -/
def Mem.read : Mem → Nat → Byte
  | [], a => initByte a
  | (b, x) :: rest, a => if b = a then x else Mem.read rest a

/-- Place a cell before the first cell of a higher address. -/
def Mem.insert (a : Nat) (x : Byte) : Mem → Mem
  | [] => [(a, x)]
  | (b, y) :: rest => if a < b then (a, x) :: (b, y) :: rest else (b, y) :: Mem.insert a x rest

/-- Every cell but those of address `a`. -/
def Mem.erase (a : Nat) (m : Mem) : Mem := m.filter fun c => c.1 != a

/-- Memory after `x` is stored at `a` (R63). A byte equal to the construction content is not listed. -/
def Mem.write (m : Mem) (a : Nat) (x : Byte) : Mem :=
  if x = initByte a then m.erase a else (m.erase a).insert a x

/-- The canonical form: addresses strictly rising and inside the address space, no cell equal to the
construction content of its address. -/
def Mem.wf : Mem → Bool
  | [] => true
  | (a, x) :: rest =>
    decide (a < memSize) && x != initByte a && rest.all (fun c => decide (a < c.1)) && Mem.wf rest

end Sys2Proof.Machine
end

