-- ==== Sys2Proof/Machine/Ops.lean ====
section
/-! DEFINITION. The named operations over registers, memory, the stack and the outputs. A meaning runs
on the state before its fetch: `s.pc` is the fetch address `a`, and the meaning itself leaves PC where
R24 says. This hardware has no trap entry and no trap return (60_exceptions.md R227, R228; log 16); what takes
their place is raising a fault (R224) and emitting a notice (R221). -/

namespace Sys2Proof.Machine

/-- The outcome of one step. -/
abbrev Result := Host.Outcome State Fault Refusal

/-- Raise a fault, or go on with the value (R8, R224): a fault keeps nothing of the step. -/
def orRaise {α : Type} (r : Except Fault α) (k : α → Result) : Result :=
  match r with
  | .ok a => k a
  | .error f => .fault f

/-- `V[x]` (R8, R21). -/
def State.reg (s : State) (x : Nibble) : Byte := s.v[x.toNat]'x.isLt

/-- `V[x] <- b` (R8). -/
def State.setReg (s : State) (x : Nibble) (b : Byte) : State :=
  { s with v := s.v.set x.toNat b x.isLt }

/-- `V[0]` to `V[n-1]`. -/
def State.firstRegs (s : State) (n : Nat) : List Byte :=
  (List.range n).map fun i => s.reg (BitVec.ofNat 4 i)

/-- `V[i] <- bytes[i]` for every `i` the list reaches; the other registers keep their value. -/
def State.setFirstRegs (s : State) (bytes : List Byte) : State :=
  { s with v := Vector.ofFn fun i => bytes.getD i.val s.v[i] }

/-- The advance of PC past the instruction (R24, R93): `PC <- (PC + 2) mod 2^16`. -/
def State.advance (s : State) : State := { s with pc := s.pc + 2#16 }

/-- The skip rule (R129): past the instruction, and past one more when the condition holds. -/
def State.skipIf (s : State) (c : Bool) : State := if c then s.advance.advance else s.advance

/-- Emit a notice (R8, R221). -/
def State.notify (s : State) (n : Notice) : State := { s with out := { s.out with diag := some n } }

/-- What SYS does (R120): the notice, and PC past the instruction. -/
def State.sysNotice (s : State) (nnn : Addr12) : State :=
  s.advance.notify (.unimplementedProgramCall nnn s.pc)

/-- What an unknown word does (R97): the notice, and PC past the word. -/
def State.unknownNotice (s : State) (w : Word) : State :=
  s.advance.notify (.unknownInstruction w s.pc)

/-- The index into memory an address stands for (R64): itself up to 0xFFF; above, the policy decides. -/
def State.resolve (s : State) (addr : Nat) : Except Fault Nat :=
  if addr < memSize then .ok addr
  else
    match s.cfg.addrPolicy with
    | .fault => .error (.addressRange addr s.pc)
    | .wrap12 => .ok (addr % memSize)

/-- `MemRead(addr, 1)` (R62). -/
def State.readByte (s : State) (addr : Nat) : Except Fault Byte :=
  match s.resolve addr with
  | .ok a => .ok (s.mem.read a)
  | .error f => .error f

/-- `MemWrite(addr, 1, b)` (R63). -/
def State.writeByte (s : State) (addr : Nat) (b : Byte) : Except Fault State :=
  match s.resolve addr with
  | .ok a => .ok { s with mem := s.mem.write a b }
  | .error f => .error f

/-- `n` byte reads in ascending address order (R67, R166); the first offending address is the one
reported (R226). -/
def State.readBytes (s : State) : Nat → Nat → Except Fault (List Byte)
  | _, 0 => .ok []
  | addr, n + 1 =>
    match s.readByte addr with
    | .ok b =>
      match s.readBytes (addr + 1) n with
      | .ok rest => .ok (b :: rest)
      | .error f => .error f
    | .error f => .error f

/-- Byte writes in ascending address order (R67, R166), all or none (R68). -/
def State.writeBytes (s : State) : Nat → List Byte → Except Fault State
  | _, [] => .ok s
  | addr, b :: rest =>
    match s.writeByte addr b with
    | .ok t => t.writeBytes (addr + 1) rest
    | .error f => .error f

/-- `push(v)` (R27). -/
def State.push (s : State) (v : Word) : Except Fault State :=
  if h : s.sp.val < 16 then
    .ok { s with stk := s.stk.set s.sp.val v h, sp := ⟨s.sp.val + 1, Nat.succ_lt_succ h⟩ }
  else
    match s.cfg.stackPolicy with
    | .fault => .error (.stackOverflow v s.pc)
    | .legacySilent => .ok s

/-- `pop()` (R28): the value, and the state after it. -/
def State.pop (s : State) : Except Fault (Word × State) :=
  if h : 0 < s.sp.val then
    .ok (s.stk[s.sp.val - 1]'(Nat.lt_of_lt_of_le (Nat.sub_lt h Nat.zero_lt_one) (Nat.le_of_lt_succ s.sp.isLt)),
      { s with sp := ⟨s.sp.val - 1, Nat.lt_of_le_of_lt (Nat.sub_le _ _) s.sp.isLt⟩ })
  else
    match s.cfg.stackPolicy with
    | .fault => .error (.stackUnderflow s.pc)
    | .legacySilent => .ok (0x0000#16, s)

/-- One timer tick (R232): both counters toward zero, and the pulse when `ST` reaches it. -/
def State.tick (s : State) : State :=
  { s with
    dt := if s.dt = 0#8 then 0#8 else s.dt - 1#8
    st := if s.st = 0#8 then 0#8 else s.st - 1#8
    out := { s.out with toneStopped := s.st == 1#8 } }

/-- `tone` (R39): the level `ST != 0`. -/
def State.tone (s : State) : Bool := s.st != 0#8

/-- `KEY[k]` as the step sees it (R37). -/
def State.key (s : State) (k : Fin 16) : Bool := s.keys[k]

end Sys2Proof.Machine
end

