-- ==== Sys2Proof/Machine/Flags.lean ====
section
/-! DEFINITION. The flag register (10_state.md R22) and the flag rules of 41_alu.md. -/

namespace Sys2Proof.Machine

/-- A flag as `VF` holds it: 1 or 0 (R22). -/
def flagByte (b : Bool) : Byte := if b then 1#8 else 0#8

/-- The carry of ADD Vx,Vy: the 9-bit sum exceeds 255 (R147). -/
def carryOut (a b : Byte) : Bool := decide (255 < a.toNat + b.toNat)

/-- No borrow in `a - b` (R148, R150). -/
def noBorrow (a b : Byte) : Bool := decide (b.toNat ≤ a.toNat)

/-- The bit SHR shifts out (R149). -/
def lowBit (v : Byte) : Bool := v.getLsbD 0

/-- The bit SHL shifts out (R151). -/
def highBit (v : Byte) : Bool := v.getLsbD 7

/-- The two writes of a flag-writing ALU instruction (R140): `VF` first, the result last, so that with
`x = 15` the result remains. -/
def State.setFlagged (s : State) (flag : Bool) (x : Nibble) (result : Byte) : State :=
  (s.setReg flagReg (flagByte flag)).setReg x result

/-- The two writes of OR, AND and XOR (R144 to R146): the base machine clears `VF` first. -/
def State.setLogic (s : State) (x : Nibble) (result : Byte) : State :=
  match s.cfg.variant with
  | .base => s.setFlagged false x result
  | .extended => s.setReg x result

end Sys2Proof.Machine
end

