-- ==== Sys2Proof/Machine/Operands.lean ====
section
/-! DEFINITION. The operand forms that are more than a register or an immediate: hex digits and key
indexes, the variant-dependent source registers, sprite coordinates and rows, clamped RPL counts. -/

namespace Sys2Proof.Machine

/-- A register value used as a hex digit or key index (R162, R180, R199): above 15 the policy decides. -/
def State.digit (s : State) (x : Nibble) : Except Fault Nibble :=
  if s.reg x ≤ 15#8 then .ok ((s.reg x).extractLsb' 0 4)
  else
    match s.cfg.digitPolicy with
    | .fault => .error (.operandRange (s.reg x) s.pc)
    | .mask4 => .ok ((s.reg x).extractLsb' 0 4)

/-- The value SHR and SHL shift (R149, R151): `V[y]` on the base machine, `V[x]` on the extended one. -/
def State.shiftSource (s : State) (x y : Nibble) : Byte :=
  match s.cfg.variant with
  | .base => s.reg y
  | .extended => s.reg x

/-- The value JP V0,nnn adds (R128): `V[0]` on the base machine, `V[nnn[11:8]]` on the extended one. -/
def State.jumpOffset (s : State) (nnn : Addr12) : Byte :=
  match s.cfg.variant with
  | .base => s.reg 0#4
  | .extended => s.reg (nnn.extractLsb' 8 4)

/-- `I` after a block transfer of registers 0 to x (R164, R165). -/
def State.indexAfterBlock (s : State) (x : Nibble) : Word :=
  match s.cfg.variant with
  | .base => s.idx + BitVec.ofNat 16 (x.toNat + 1)
  | .extended => s.idx

/-- The start column of a draw (R172): `V[x] mod W`. -/
def State.drawX (s : State) (x : Nibble) : Nat := (s.reg x).toNat % s.fb.w

/-- The start row of a draw (R172): `V[y] mod H`. -/
def State.drawY (s : State) (y : Nibble) : Nat := (s.reg y).toNat % s.fb.h

/-- The 16-bit rows of a 16 by 16 sprite: the byte at the lower address is the left half (R197). -/
def pairRows : List Byte → List Word
  | left :: right :: rest => (left ++ right) :: pairRows rest
  | _ => []

/-- The last RPL slot a transfer of registers 0 to x reaches (R200, R201). -/
def rplLast (x : Nibble) : Nat := if 7 < x.toNat then 7 else x.toNat

/-- The least pressed key, in scan order 0 to 15 (R183). -/
def State.firstKey (s : State) : Option (Fin 16) := (List.finRange 16).find? fun k => s.key k

/-- The decimal digits of a byte, hundreds first (R163). -/
def bcdDigits (b : Byte) : List Byte :=
  [BitVec.ofNat 8 (b.toNat / 100), BitVec.ofNat 8 (b.toNat / 10 % 10), BitVec.ofNat 8 (b.toNat % 10)]

end Sys2Proof.Machine
end

