-- ==== Sys2Proof/Machine/Alu.lean ====
section
/-! DEFINITION. Register and ALU instructions (41_alu.md). All operands are read from the state before
the instruction (R140). -/

namespace Sys2Proof.Machine

/-- LD Vx,nn (R141). -/
def execLdImm (x : Nibble) (nn : Byte) (s : State) : Result := .next (s.advance.setReg x nn)

/-- ADD Vx,nn (R142): no flag. -/
def execAddImm (x : Nibble) (nn : Byte) (s : State) : Result := .next (s.advance.setReg x (s.reg x + nn))

/-- LD Vx,Vy (R143). -/
def execLdReg (x y : Nibble) (s : State) : Result := .next (s.advance.setReg x (s.reg y))

/-- OR Vx,Vy (R144). -/
def execOrReg (x y : Nibble) (s : State) : Result := .next (s.advance.setLogic x (s.reg x ||| s.reg y))

/-- AND Vx,Vy (R145). -/
def execAndReg (x y : Nibble) (s : State) : Result := .next (s.advance.setLogic x (s.reg x &&& s.reg y))

/-- XOR Vx,Vy (R146). -/
def execXorReg (x y : Nibble) (s : State) : Result := .next (s.advance.setLogic x (s.reg x ^^^ s.reg y))

/-- ADD Vx,Vy (R147). -/
def execAddReg (x y : Nibble) (s : State) : Result :=
  .next (s.advance.setFlagged (carryOut (s.reg x) (s.reg y)) x (s.reg x + s.reg y))

/-- SUB Vx,Vy (R148). -/
def execSubReg (x y : Nibble) (s : State) : Result :=
  .next (s.advance.setFlagged (noBorrow (s.reg x) (s.reg y)) x (s.reg x - s.reg y))

/-- SUBN Vx,Vy (R150). -/
def execSubn (x y : Nibble) (s : State) : Result :=
  .next (s.advance.setFlagged (noBorrow (s.reg y) (s.reg x)) x (s.reg y - s.reg x))

/-- SHR Vx,Vy (R149). -/
def execShr (x y : Nibble) (s : State) : Result :=
  .next (s.advance.setFlagged (lowBit (s.shiftSource x y)) x (s.shiftSource x y >>> 1))

/-- SHL Vx,Vy (R151). -/
def execShl (x y : Nibble) (s : State) : Result :=
  .next (s.advance.setFlagged (highBit (s.shiftSource x y)) x (s.shiftSource x y <<< 1))

/-- RND Vx,nn (R152): the byte presented to this step. -/
def execRnd (x : Nibble) (nn : Byte) (s : State) : Result := .next (s.advance.setReg x (s.rnd &&& nn))

end Sys2Proof.Machine
end

