-- ==== Sys2Proof/Machine/ControlFlow.lean ====
section
/-! DEFINITION. Control transfer (40_control_flow.md). -/

namespace Sys2Proof.Machine

/-- SYS nnn (R120). -/
def execSys (nnn : Addr12) (s : State) : Result := .next (s.sysNotice nnn)

/-- JP nnn (R121). -/
def execJp (nnn : Addr12) (s : State) : Result := .next { s with pc := nnn.setWidth 16 }

/-- CALL nnn (R122): the pushed address is a + 2. -/
def execCall (nnn : Addr12) (s : State) : Result :=
  orRaise (s.push (s.pc + 2#16)) fun t => .next { t with pc := nnn.setWidth 16 }

/-- RET (R123). -/
def execRet (s : State) : Result := orRaise s.pop fun p => .next { p.2 with pc := p.1 }

/-- SE Vx,nn (R124). -/
def execSeImm (x : Nibble) (nn : Byte) (s : State) : Result := .next (s.skipIf (s.reg x == nn))

/-- SNE Vx,nn (R125). -/
def execSneImm (x : Nibble) (nn : Byte) (s : State) : Result := .next (s.skipIf (s.reg x != nn))

/-- SE Vx,Vy (R126). -/
def execSeReg (x y : Nibble) (s : State) : Result := .next (s.skipIf (s.reg x == s.reg y))

/-- SNE Vx,Vy (R127). -/
def execSneReg (x y : Nibble) (s : State) : Result := .next (s.skipIf (s.reg x != s.reg y))

/-- JP V0,nnn (R128): not reduced to 12 bits. -/
def execJpV0 (nnn : Addr12) (s : State) : Result :=
  .next { s with pc := nnn.setWidth 16 + (s.jumpOffset nnn).setWidth 16 }

end Sys2Proof.Machine
end

