-- ==== Sys2Proof/Machine/Display.lean ====
section
/-! DEFINITION. The display instructions (43_display.md) and the extended machine's scrolls, resolution
switches and 16 by 16 draw (45_extended.md). On the base machine the extended encodings are SYS, or the
empty draw for Dxy0 (30_encoding.md R98, R100; DEDUCED, log 14). -/

namespace Sys2Proof.Machine

/-- The end of a draw: the new grid, and the collision in `VF` (R172, R197). -/
def State.drawn (s : State) (g : Framebuffer × Bool) : State :=
  { s.advance.setReg flagReg (flagByte g.2) with fb := g.1 }

/-- The clipped draw of `n` rows at `I` (R172): all rows are read before anything is written. -/
def State.drawRows (s : State) (x y : Nibble) (n : Nat) : Result :=
  orRaise (s.readBytes s.idx.toNat n) fun rows =>
    .next (s.drawn (s.fb.draw (s.fb.clip (spritePixels (s.drawX x) (s.drawY y) rows))))

/-- Which pixels the 16 by 16 draw plots (R197): all of them where the rectangle fits, else as
`DRAW16_EDGE` says. -/
def State.pixels16 (s : State) (x0 y0 : Nat) (ps : List Pixel) : Except Fault (List Pixel) :=
  if x0 + 15 < s.fb.w ∧ y0 + 15 < s.fb.h then .ok ps
  else
    match s.cfg.draw16Edge with
    | .fault => .error (.framebufferRange x0 y0 s.pc)
    | .drop => .ok (s.fb.clip ps)
    | .wrap => .ok (s.fb.wrap ps)

/-- The 16 by 16 draw (R197): the 32 bytes at `I` are read first, then the edge is checked. -/
def State.draw16 (s : State) (x y : Nibble) : Result :=
  orRaise (s.readBytes s.idx.toNat 32) fun bytes =>
    orRaise (s.pixels16 (s.drawX x) (s.drawY y)
        (spritePixels (s.drawX x) (s.drawY y) (pairRows bytes))) fun ps =>
      .next (s.drawn (s.fb.draw ps))

/-- CLS (R171). -/
def execCls (s : State) : Result := .next { s.advance with fb := s.fb.clear }

/-- DRW Vx,Vy,n (R172); with n = 0 the extended machine executes the 16 by 16 draw instead. -/
def execDrw (x y n : Nibble) (s : State) : Result :=
  if n = 0#4 ∧ s.cfg.variant = .extended then s.draw16 x y else s.drawRows x y n.toNat

/-- DRW Vx,Vy,0 (R197); on the base machine a draw of no rows (R98). -/
def execDrw16 (x y : Nibble) (s : State) : Result :=
  match s.cfg.variant with
  | .extended => s.draw16 x y
  | .base => s.drawRows x y 0

/-- SCD n (R190); on the base machine SYS 0x0Cn (R100). -/
def execScd (n : Nibble) (s : State) : Result :=
  match s.cfg.variant with
  | .extended => .next { s.advance with fb := s.fb.scrollDown n.toNat }
  | .base => .next (s.sysNotice (0x0C#8 ++ n))

/-- SCR (R191); on the base machine SYS 0x0FB (R100). -/
def execScr (s : State) : Result :=
  match s.cfg.variant with
  | .extended => .next { s.advance with fb := s.fb.scrollRight }
  | .base => .next (s.sysNotice 0x0FB#12)

/-- SCL (R192); on the base machine SYS 0x0FC (R100). -/
def execScl (s : State) : Result :=
  match s.cfg.variant with
  | .extended => .next { s.advance with fb := s.fb.scrollLeft }
  | .base => .next (s.sysNotice 0x0FC#12)

/-- LOW (R195); on the base machine SYS 0x0FE (R100). -/
def execLow (s : State) : Result :=
  match s.cfg.variant with
  | .extended => .next { s.advance with hires := false, fb := Framebuffer.replace 64 32 }
  | .base => .next (s.sysNotice 0x0FE#12)

/-- HIGH (R196); on the base machine SYS 0x0FF (R100). -/
def execHigh (s : State) : Result :=
  match s.cfg.variant with
  | .extended => .next { s.advance with hires := true, fb := Framebuffer.replace 128 64 }
  | .base => .next (s.sysNotice 0x0FF#12)

end Sys2Proof.Machine
end

