-- ==== Sys2Proof/Machine/Extended.lean ====
section
/-! DEFINITION. EXIT, LD HF,Vx and the RPL transfers (45_extended.md). On the base machine EXIT's word is
SYS 0x0FD and the others are unknown words (30_encoding.md R98, R100; DEDUCED, log 14). -/

namespace Sys2Proof.Machine

/-- EXIT (R194): the pulse and the sticky bit. -/
def execExit (s : State) : Result :=
  match s.cfg.variant with
  | .extended => .next { s.advance with halted := true, out := { s.out with exitReq := true } }
  | .base => .next (s.sysNotice 0x0FD#12)

/-- LD HF,Vx (R199): the address of the 10-byte glyph, mod 2^16. -/
def execLdHf (x : Nibble) (s : State) : Result :=
  match s.cfg.variant with
  | .extended =>
    orRaise (s.digit x) fun d =>
      .next { s.advance with idx := s.cfg.bigFontBase + BitVec.ofNat 16 (10 * d.toNat) }
  | .base => .next (s.unknownNotice (0xF#4 ++ x ++ 0x30#8))

/-- LD R,Vx (R200). -/
def execStoreRpl (x : Nibble) (s : State) : Result :=
  match s.cfg.variant with
  | .extended =>
    .next { s.advance with
      rpl := Vector.ofFn fun i => if i.val ≤ rplLast x then s.reg (BitVec.ofNat 4 i.val) else s.rpl[i] }
  | .base => .next (s.unknownNotice (0xF#4 ++ x ++ 0x75#8))

/-- LD Vx,R (R201). -/
def execLoadRpl (x : Nibble) (s : State) : Result :=
  match s.cfg.variant with
  | .extended => .next (s.advance.setFirstRegs (s.rpl.toList.take (rplLast x + 1)))
  | .base => .next (s.unknownNotice (0xF#4 ++ x ++ 0x85#8))

end Sys2Proof.Machine
end

