-- ==== Sys2Proof/Machine/IndexMemory.lean ====
section
/-! DEFINITION. Index register and memory instructions (42_index_memory.md). -/

namespace Sys2Proof.Machine

/-- LD I,nnn (R160). -/
def execLdI (nnn : Addr12) (s : State) : Result := .next { s.advance with idx := nnn.setWidth 16 }

/-- ADD I,Vx (R161): mod 2^16, no flag. -/
def execAddI (x : Nibble) (s : State) : Result :=
  .next { s.advance with idx := s.idx + (s.reg x).setWidth 16 }

/-- LD F,Vx (R162): the address of the 5-byte glyph. -/
def execLdF (x : Nibble) (s : State) : Result :=
  orRaise (s.digit x) fun d => .next { s.advance with idx := BitVec.ofNat 16 (fontBase + 5 * d.toNat) }

/-- LD B,Vx (R163): hundreds, tens and units at I, I+1, I+2. -/
def execLdB (x : Nibble) (s : State) : Result :=
  orRaise (s.writeBytes s.idx.toNat (bcdDigits (s.reg x))) fun t => .next t.advance

/-- LD [I],Vx (R164). -/
def execStoreRegs (x : Nibble) (s : State) : Result :=
  orRaise (s.writeBytes s.idx.toNat (s.firstRegs (x.toNat + 1))) fun t =>
    .next { t.advance with idx := s.indexAfterBlock x }

/-- LD Vx,[I] (R165). -/
def execLoadRegs (x : Nibble) (s : State) : Result :=
  orRaise (s.readBytes s.idx.toNat (x.toNat + 1)) fun bytes =>
    .next { (s.setFirstRegs bytes).advance with idx := s.indexAfterBlock x }

end Sys2Proof.Machine
end

