-- ==== Sys2Proof/Machine/KeypadTimers.lean ====
section
/-! DEFINITION. Keypad and timer instructions (44_keypad_timers.md). -/

namespace Sys2Proof.Machine

/-- SKP Vx (R181). -/
def execSkp (x : Nibble) (s : State) : Result :=
  orRaise (s.digit x) fun k => .next (s.skipIf (s.key k.toFin))

/-- SKNP Vx (R182). -/
def execSknp (x : Nibble) (s : State) : Result :=
  orRaise (s.digit x) fun k => .next (s.skipIf (!s.key k.toFin))

/-- LD Vx,K (R183): latch the least pressed key, wait while it is held, complete on its release. While it
waits PC stays at the instruction. -/
def execLdVxK (x : Nibble) (s : State) : Result :=
  match s.kwait with
  | none => .next { s with kwait := s.firstKey }
  | some k =>
    if s.key k then .next s
    else .next { s.advance.setReg x (BitVec.ofNat 8 k.val) with kwait := none }

/-- LD Vx,DT (R184). -/
def execLdVxDt (x : Nibble) (s : State) : Result := .next (s.advance.setReg x s.dt)

/-- LD DT,Vx (R185). -/
def execLdDtVx (x : Nibble) (s : State) : Result := .next { s.advance with dt := s.reg x }

/-- LD ST,Vx (R186): no pulse. -/
def execLdStVx (x : Nibble) (s : State) : Result := .next { s.advance with st := s.reg x }

end Sys2Proof.Machine
end

