-- ==== Sys2Proof/Machine/Driver.lean ====
section
/-! DEFINITION. The driver's side (00_scope.md R9, 70_reset_and_hazards.md R250 to R254, R259): which
request is next, the latching of its inputs, the warm reset, construction and program load, and placing
one instruction word for the host's own checks. -/

namespace Sys2Proof.Machine

/-- The driver's next request: the first one listed, and where none is listed a free value, so that every
schedule of steps and ticks is admitted, unending ones included (R9, R233; log 3). -/
def State.nextRequest (s : State) : Request :=
  match s.requests with
  | r :: _ => r
  | [] => Config.freeRequest s.fresh

/-- The request taken off the list and the pulses of the step before gone (R39): they last one step. -/
def State.beginStep (s : State) : State :=
  { s with requests := s.requests.tail, fresh := s.fresh + 1, out := noSignals }

/-- The inputs of an instruction step as they stand at the request (R37, R38, R93). -/
def State.withInputs (s : State) (keys : Keys) (rnd : Byte) : State := { s with keys := keys, rnd := rnd }

/-- The warm reset (R254): everything to its construction value but memory, the RPL flags and the
parameters; the driver's inputs and requests are not the core's to reset (DESIGN CHOICE, log 12). -/
def State.warmReset (s : State) : State :=
  { State.initial s.cfg s.fresh with
    mem := s.mem, rpl := s.rpl, keys := s.keys, rnd := s.rnd, requests := s.requests }

/-- Why a load yields no machine (R220, R222, R251). -/
inductive LoadError where
  /-- `LoadUnreadable`: the source cannot be read. -/
  | loadUnreadable
  /-- `LoadTooLarge`: the stream is longer than 3584 bytes. -/
  | loadTooLarge (len : Nat)
  deriving DecidableEq, Repr

/-- Bytes stored one after another from an address on (R250, R251). -/
def Mem.load (m : Mem) : Nat → List Byte → Mem
  | _, [] => m
  | a, b :: rest => Mem.load (m.write a b) (a + 1) rest

/-- Construction of a machine with the given parameters and program source; `none` is a source that
cannot be read (R250, R251). -/
def State.construct (c : Config) (source : Option (List Byte)) : Except LoadError State :=
  match source with
  | none => .error .loadUnreadable
  | some bytes =>
    if maxProgram < bytes.length then .error (.loadTooLarge bytes.length)
    else .ok { State.initial c 0 with mem := Mem.load [] programBase bytes }

/-- The run has ended normally (R258). -/
def State.ended (s : State) : Bool := s.halted

/-- Whether a request is an instruction step. -/
def Request.isInstruction : Request → Bool
  | .instruction _ _ => true
  | .tick => false
  | .reset => false

/-- The requests from the first instruction step on; where none is listed, one instruction step with the keys
as they stand and a random byte under no law (R38; logs 5 and 11). -/
def State.requestsFromInstruction (s : State) : List Request :=
  match s.requests.dropWhile (fun r => !r.isInstruction) with
  | [] => [.instruction s.keys (Config.rndByte s.fresh)]
  | r :: rest => r :: rest

/-- `s` with a word stored where the next instruction step fetches it, and that step next: the requests
before the first instruction step are dropped (one is listed where there is none), the halt is lifted, and a PC that cannot be fetched from is
moved to the program base (log 11). -/
def State.placeWord (s : State) (w : Word) : State :=
  let t := { s with requests := s.requestsFromInstruction, halted := false }
  match t.writeBytes t.pc.toNat [w.extractLsb' 8 8, w.extractLsb' 0 8] with
  | .ok u => u
  | .error _ =>
    { t with
      pc := BitVec.ofNat 16 programBase
      mem := Mem.load t.mem programBase [w.extractLsb' 8 8, w.extractLsb' 0 8] }

end Sys2Proof.Machine
end

