-- ==== Sys2Proof/Machine/Cycle.lean ====
section
/-! DEFINITION. The instruction step: fetch, decode, execute (30_encoding.md R93), and the serving of one
request of the driver (00_scope.md R9). -/

namespace Sys2Proof.Machine

/-- The word at `PC` (R93, R65): the byte at `PC` is the high byte; `PC + 1` is not reduced (R64). -/
def State.fetch (s : State) : Except Fault Word :=
  match s.readByte s.pc.toNat with
  | .ok hi =>
    match s.readByte (s.pc.toNat + 1) with
    | .ok lo => .ok (hi ++ lo)
    | .error f => .error f
  | .error f => .error f

/-- What a step does with the fetched word: the meaning of the instruction it is, or, where no row of the
opcode map admits it, the notice of R97. -/
def State.execute (s : State) (w : Word) : Result :=
  match decode s.cfg.variant w with
  | .ok i => exec i s
  | .error _ => .next (s.unknownNotice w)

/-- One instruction step (R93): nothing after EXIT, else fetch, decode and execute. -/
def State.instructionStep (s : State) : Result :=
  if s.halted then .next s else orRaise s.fetch s.execute

/-- Serve one request of the driver (R9, R93, R232, R254). -/
def State.serve (s : State) (r : Request) : Result :=
  match r with
  | .instruction keys rnd => (s.withInputs keys rnd).instructionStep
  | .tick => .next s.tick
  | .reset => .next s.warmReset

end Sys2Proof.Machine
end

