-- ==== Sys2Proof/Machine/Step.lean ====
section
/-! DEFINITION. One step of the machine: the driver's next request, served (00_scope.md R9). -/

namespace Sys2Proof.Machine

/-- The driver's next request, taken off the list and served (R9, R93, R232, R254). -/
def step (s : State) : Host.Outcome State Fault Refusal := s.beginStep.serve s.nextRequest

/-- `s` with the table word `w` of `nbits` bits placed where the next step fetches. -/
def State.withFetchWord (s : State) (nbits w : Nat) : State :=
  s.placeWord (BitVec.ofNat 16 (w % 2 ^ nbits))

end Sys2Proof.Machine
end

