-- ==== Sys2Proof/Machine/Disasm.lean ====
section
/-! DEFINITION. The disassembler (46_disassembler.md): a pure function from a word to its text, reading
no state and not the machine's variant. -/

namespace Sys2Proof.Machine

/-- One capital hexadecimal digit (R212). -/
def hexDigit (d : Nibble) : String :=
  match d.toNat with
  | 0 => "0" | 1 => "1" | 2 => "2" | 3 => "3" | 4 => "4" | 5 => "5" | 6 => "6" | 7 => "7"
  | 8 => "8" | 9 => "9" | 10 => "A" | 11 => "B" | 12 => "C" | 13 => "D" | 14 => "E" | _ => "F"

/-- A register's name (R212). -/
def regText (x : Nibble) : String := "V" ++ hexDigit x

/-- `0x` and two digits (R212). -/
def byteText (b : Byte) : String := "0x" ++ hexDigit (b.extractLsb' 4 4) ++ hexDigit (b.extractLsb' 0 4)

/-- `0x` and three digits (R212). -/
def addrText (a : Addr12) : String :=
  "0x" ++ hexDigit (a.extractLsb' 8 4) ++ hexDigit (a.extractLsb' 4 4) ++ hexDigit (a.extractLsb' 0 4)

/-- Mnemonic, space, two operands (R212). -/
def twoText (m a b : String) : String := m ++ " " ++ a ++ ", " ++ b

/-- The text of an instruction (R213). -/
def instrText : Instr → String
  | .scd n => "SCD " ++ hexDigit n
  | .cls => "CLS"
  | .ret => "RET"
  | .scr => "SCR"
  | .scl => "SCL"
  | .exitReq => "EXIT"
  | .low => "LOW"
  | .high => "HIGH"
  | .sys nnn => "SYS " ++ addrText nnn
  | .jp nnn => "JP " ++ addrText nnn
  | .call nnn => "CALL " ++ addrText nnn
  | .seImm x nn => twoText "SE" (regText x) (byteText nn)
  | .sneImm x nn => twoText "SNE" (regText x) (byteText nn)
  | .seReg x y => twoText "SE" (regText x) (regText y)
  | .ldImm x nn => twoText "LD" (regText x) (byteText nn)
  | .addImm x nn => twoText "ADD" (regText x) (byteText nn)
  | .ldReg x y => twoText "LD" (regText x) (regText y)
  | .orReg x y => twoText "OR" (regText x) (regText y)
  | .andReg x y => twoText "AND" (regText x) (regText y)
  | .xorReg x y => twoText "XOR" (regText x) (regText y)
  | .addReg x y => twoText "ADD" (regText x) (regText y)
  | .subReg x y => twoText "SUB" (regText x) (regText y)
  | .shr x y => twoText "SHR" (regText x) (regText y)
  | .subn x y => twoText "SUBN" (regText x) (regText y)
  | .shl x y => twoText "SHL" (regText x) (regText y)
  | .sneReg x y => twoText "SNE" (regText x) (regText y)
  | .ldI nnn => twoText "LD" "I" (addrText nnn)
  | .jpV0 nnn => twoText "JP" "V0" (addrText nnn)
  | .rnd x nn => twoText "RND" (regText x) (byteText nn)
  | .drw16 x y => twoText "DRW" (regText x) (regText y) ++ ", 0"
  | .drw x y n => twoText "DRW" (regText x) (regText y) ++ ", " ++ hexDigit n
  | .skp x => "SKP " ++ regText x
  | .sknp x => "SKNP " ++ regText x
  | .ldVxDt x => twoText "LD" (regText x) "DT"
  | .ldVxK x => twoText "LD" (regText x) "K"
  | .ldDtVx x => twoText "LD" "DT" (regText x)
  | .ldStVx x => twoText "LD" "ST" (regText x)
  | .addI x => twoText "ADD" "I" (regText x)
  | .ldF x => twoText "LD" "F" (regText x)
  | .ldHf x => twoText "LD" "HF" (regText x)
  | .ldB x => twoText "LD" "B" (regText x)
  | .storeRegs x => twoText "LD" "[I]" (regText x)
  | .loadRegs x => twoText "LD" (regText x) "[I]"
  | .storeRpl x => twoText "LD" "R" (regText x)
  | .loadRpl x => twoText "LD" (regText x) "R"

/-- The text of a word (R210, R211): selection over all 45 rows whatever the machine's variant, which is
the extended machine's selection; the empty string for a word that matches none. -/
def disassemble (w : Word) : String :=
  match decode .extended w with
  | .ok i => instrText i
  | .error _ => ""

end Sys2Proof.Machine
end

