-- ==== Sys2Proof/Safety.lean ====
section
/-! DEFINITION. What claims are stated in: the well-formed states, the key latch's invariant, safe steps,
and the frames that say what an instruction leaves alone. -/

namespace Sys2Proof.Machine

/-- `W`, `H` and `HIRES` agree, and `HIRES` is 0 on the base machine (10_state.md R23, R32). -/
def State.resolutionOk (s : State) : Bool :=
  (if s.hires then s.fb.w == 128 && s.fb.h == 64 else s.fb.w == 64 && s.fb.h == 32) &&
    (s.cfg.variant == .extended || !s.hires)

/-- The canonical forms of memory and framebuffer, and the resolution rule. -/
def State.wf (s : State) : Bool := s.mem.wf && s.fb.wf && s.resolutionOk

/-- The invariant of R35: a latched key is held only while the next instruction is an LD Vx,K. -/
def State.latchOk (s : State) : Bool :=
  match s.kwait with
  | none => true
  | some _ =>
    match s.fetch with
    | .ok w => w &&& 0xF0FF#16 == 0xF00A#16
    | .error _ => false

/-- A safe step: it ends in a next state, no fault (60_exceptions.md R220). -/
def State.safe (s : State) : Prop := ∃ t, step s = .next t

/-- From `s` to `t` the registers outside `ws` keep their values. -/
def RegsKept (s t : State) (ws : List Nibble) : Prop := ∀ r, r ∉ ws → t.reg r = s.reg r

/-- From `s` to `t` every byte of memory outside `as` keeps its value. -/
def BytesKept (s t : State) (as : List Nat) : Prop := ∀ a, a ∉ as → t.mem.read a = s.mem.read a

/-- Only PC and the registers of `ws` change: the frame of the register instructions. -/
def RegFrame (s t : State) (ws : List Nibble) : Prop :=
  RegsKept s t ws ∧ BytesKept s t [] ∧ t = { s with v := t.v, pc := t.pc }

/-- Only PC changes: the frame of the jumps and skips. -/
def PcFrame (s t : State) : Prop :=
  RegsKept s t [] ∧ BytesKept s t [] ∧ t = { s with pc := t.pc }

/-- Only PC and `I` change: the frame of the index instructions. -/
def IndexFrame (s t : State) : Prop :=
  RegsKept s t [] ∧ BytesKept s t [] ∧ t = { s with idx := t.idx, pc := t.pc }

/-- Only PC, the flag register and the pixels change: the frame of the draws. The dimensions stay. -/
def DrawFrame (s t : State) : Prop :=
  RegsKept s t [flagReg] ∧ BytesKept s t [] ∧ t.fb.w = s.fb.w ∧ t.fb.h = s.fb.h ∧
    t = { s with v := t.v, fb := t.fb, pc := t.pc }

/-- Only PC and the pixels change: the frame of CLS and the scrolls. The dimensions stay. -/
def PixelFrame (s t : State) : Prop :=
  RegsKept s t [] ∧ BytesKept s t [] ∧ t.fb.w = s.fb.w ∧ t.fb.h = s.fb.h ∧
    t = { s with fb := t.fb, pc := t.pc }

/-- Only PC, `I` and the bytes at `as` change: the frame of the stores. -/
def StoreFrame (s t : State) (as : List Nat) : Prop :=
  RegsKept s t [] ∧ BytesKept s t as ∧ t = { s with mem := t.mem, idx := t.idx, pc := t.pc }

/-- The `n` places in memory that the transfer starting at `I` reaches: addresses up to 0xFFF stand for
themselves, and under `wrap12` an address above is taken mod 4096 (20_memory.md R64, R166). -/
def State.places (s : State) (n : Nat) : List Nat :=
  (List.range n).map fun k => (s.idx.toNat + k) % memSize

/-- A transfer of `n` bytes at `I` raises no AddressRange (R64, R68); one of no bytes accesses nothing. -/
def State.reaches (s : State) (n : Nat) : Prop :=
  n = 0 ∨ s.idx.toNat + n ≤ memSize ∨ s.cfg.addrPolicy = .wrap12

/-- The bit of an 8-pixel-wide sprite at row `r` and column `c`, its rows read from `I` on; bit 7 is the
leftmost (43_display.md R172). -/
def State.spriteBit8 (s : State) (r c : Nat) : Bool :=
  decide (c < 8) && (s.mem.read ((s.idx.toNat + r) % memSize)).getLsbD (7 - c)

/-- The bit of a 16 by 16 sprite at row `r` and column `c`: two bytes a row, the one at the lower address
is the left half, bit 15 is the leftmost (45_extended.md R197). -/
def State.spriteBit16 (s : State) (r c : Nat) : Bool :=
  decide (r < 16) && decide (c < 16) &&
    (s.mem.read ((s.idx.toNat + 2 * r) % memSize) ++
      s.mem.read ((s.idx.toNat + (2 * r + 1)) % memSize) : Word).getLsbD (15 - c)

/-- Whether DRW Vx,Vy,n has a set sprite bit on the pixel (cx, cy) (R172). -/
def State.covers8 (s : State) (x y : Nibble) (n cx cy : Nat) : Bool :=
  decide (s.drawX x ≤ cx) && decide (s.drawY y ≤ cy) && decide (cy < s.drawY y + n) &&
    s.spriteBit8 (cy - s.drawY y) (cx - s.drawX x)

/-- Whether the 16 by 16 draw has a set sprite bit on the pixel (cx, cy), the sprite not wrapped (R197). -/
def State.covers16 (s : State) (x y : Nibble) (cx cy : Nat) : Bool :=
  decide (s.drawX x ≤ cx) && decide (s.drawY y ≤ cy) &&
    s.spriteBit16 (cy - s.drawY y) (cx - s.drawX x)

/-- The same with coordinates taken modulo the dimensions (R197, `wrap`). -/
def State.covers16Wrapped (s : State) (x y : Nibble) (cx cy : Nat) : Bool :=
  s.spriteBit16 ((cy + s.fb.h - s.drawY y) % s.fb.h) ((cx + s.fb.w - s.drawX x) % s.fb.w)

/-- What a draw does with the pixels `covers` names (R172, R197): each flips, every other pixel of the grid
stays, and `VF` is 1 exactly if one of them was set, else 0. -/
def Draws (s t : State) (covers : Nat → Nat → Bool) : Prop :=
  (∀ cx cy, cx < s.fb.w → cy < s.fb.h → t.fb.get cx cy = (s.fb.get cx cy ^^ covers cx cy)) ∧
  ((∃ cx cy, cx < s.fb.w ∧ cy < s.fb.h ∧ covers cx cy = true ∧ s.fb.get cx cy = true) →
    t.reg flagReg = 1#8) ∧
  ((∀ cx cy, cx < s.fb.w → cy < s.fb.h → covers cx cy = true → s.fb.get cx cy = false) →
    t.reg flagReg = 0#8)

/-- The 16 by 16 rectangle lies inside the grid (R197). -/
def State.fits16 (s : State) (x y : Nibble) : Prop :=
  s.drawX x + 16 ≤ s.fb.w ∧ s.drawY y + 16 ≤ s.fb.h

/-- The registers an instruction may write: its destination, and the flag register where the table of R22
names it (10_state.md R21, R22). -/
def mayWrite (v : Variant) : Instr → List Nibble
  | .ldImm x _ | .addImm x _ | .ldReg x _ | .rnd x _ | .ldVxDt x | .ldVxK x => [x]
  | .orReg x _ | .andReg x _ | .xorReg x _ =>
    match v with
    | .base => [x, flagReg]
    | .extended => [x]
  | .addReg x _ | .subReg x _ | .subn x _ | .shr x _ | .shl x _ => [x, flagReg]
  | .drw _ _ _ | .drw16 _ _ => [flagReg]
  | .loadRegs x => (List.range (x.toNat + 1)).map (BitVec.ofNat 4)
  | .loadRpl x =>
    match v with
    | .base => []
    | .extended => (List.range (rplLast x + 1)).map (BitVec.ofNat 4)
  | .scd _ | .cls | .ret | .scr | .scl | .exitReq | .low | .high | .sys _ | .jp _ | .call _ | .seImm _ _
  | .sneImm _ _ | .seReg _ _ | .sneReg _ _ | .ldI _ | .jpV0 _ | .skp _ | .sknp _ | .ldDtVx _ | .ldStVx _
  | .addI _ | .ldF _ | .ldHf _ | .ldB _ | .storeRegs _ | .storeRpl _ => []

/-- The register value can serve as a hex digit or key index (R162, R180, R199). -/
def State.digitOk (s : State) (x : Nibble) : Prop := s.reg x ≤ 15#8 ∨ s.cfg.digitPolicy = .mask4

end Sys2Proof.Machine
end

