-- ==== Sys2Proof/Certificates/Slice0/Obligations.lean ====
section
/-! DEFINITION. The statements for the provers. Each docstring names the rules of spec/ it rests on; a
decision of the spec that is its own choice, or a choice of the model, is named with it. -/

open Sys2Proof Sys2Proof.Machine

/-! ## Encoding -/

/-- R96, a few words of every family written out from their encodings (general knowledge, D1). -/
def Obligations.SampleWordsDecode : Prop :=
  (∀ v, decode v 0x00E0#16 = .ok .cls) ∧ (∀ v, decode v 0x00EE#16 = .ok .ret) ∧
  (∀ v, decode v 0x2300#16 = .ok (.call 0x300#12)) ∧ (∀ v, decode v 0x3A07#16 = .ok (.seImm 0xA#4 0x07#8)) ∧
  (∀ v, decode v 0x8AB4#16 = .ok (.addReg 0xA#4 0xB#4)) ∧ (∀ v, decode v 0x812E#16 = .ok (.shl 1#4 2#4)) ∧
  (∀ v, decode v 0xA2F0#16 = .ok (.ldI 0x2F0#12)) ∧ (∀ v, decode v 0xF355#16 = .ok (.storeRegs 3#4)) ∧
  (∀ v, decode v 0xD125#16 = .ok (.drw 1#4 2#4 5#4)) ∧ (∀ v, decode v 0xE19E#16 = .ok (.skp 1#4)) ∧
  (∀ v, decode v 0xF30A#16 = .ok (.ldVxK 3#4)) ∧
  decode .extended 0x00C5#16 = .ok (.scd 5#4) ∧ decode .base 0x00C5#16 = .ok (.sys 0x0C5#12) ∧
  decode .extended 0xD120#16 = .ok (.drw16 1#4 2#4) ∧ decode .base 0xD120#16 = .ok (.drw 1#4 2#4 0#4) ∧
  decode .extended 0xF175#16 = .ok (.storeRpl 1#4) ∧
  decode .base 0xF175#16 = .error (.unknownInstruction 0xF175#16)

/-- R91, R94, R95, R96: decoding the word of a well-formed instruction gives it back, every operand at every
value, on both machines. -/
def Obligations.DecodeInvertsEncode : Prop :=
  ∀ (v : Variant) (i : Instr), wellFormed v i = true → decode v (encode i) = .ok i

/-- R91, R95: a word that decodes is the word of the instruction it decodes to, and that instruction is one
of the machine's. -/
def Obligations.EncodeInvertsDecode : Prop :=
  ∀ (v : Variant) (w : Word) (i : Instr), decode v w = .ok i → encode i = w ∧ wellFormed v i = true

/-- R95: the decoder selects the row with the most fixed bits among those that admit the variant and match,
which is also the first such row from the top, and rejects exactly the words no row matches. -/
def Obligations.SelectionTakesMostFixedBits : Prop :=
  ∀ (v : Variant) (w : Word),
    (∀ i, decode v w = .ok i →
      i.row ∈ opcodeMap ∧ i.row.admits v = true ∧ i.row.matchesWord w = true ∧
      (∀ r ∈ opcodeMap, r.admits v = true → r.matchesWord w = true → r ≠ i.row →
        r.fixedBits < i.row.fixedBits) ∧
      selectRow v w = some i.row) ∧
    (∀ e, decode v w = .error e →
      (∀ r ∈ opcodeMap, r.admits v = true → r.matchesWord w = false) ∧ selectRow v w = none)

/-- R97: the unknown words are exactly the listed patterns, and a step on one emits the notice, leaves PC
at a + 2 and changes nothing else of the core. -/
def Obligations.UnknownWordsOnlyGiveANotice : Prop :=
  (∀ (v : Variant) (w : Word),
    (∃ e, decode v w = .error e) ↔
      ((fields w).op = 0x5#4 ∧ (fields w).n ≠ 0#4) ∨
      ((fields w).op = 0x8#4 ∧ (fields w).n ∈ [0x8#4, 0x9#4, 0xA#4, 0xB#4, 0xC#4, 0xD#4, 0xF#4]) ∨
      ((fields w).op = 0x9#4 ∧ (fields w).n ≠ 0#4) ∨
      ((fields w).op = 0xE#4 ∧ (fields w).nn ∉ [0x9E#8, 0xA1#8]) ∨
      (v = .base ∧ (fields w).op = 0xF#4 ∧
        (fields w).nn ∉ [0x07#8, 0x0A#8, 0x15#8, 0x18#8, 0x1E#8, 0x29#8, 0x33#8, 0x55#8, 0x65#8]) ∨
      (v = .extended ∧ (fields w).op = 0xF#4 ∧
        (fields w).nn ∉ [0x07#8, 0x0A#8, 0x15#8, 0x18#8, 0x1E#8, 0x29#8, 0x30#8, 0x33#8, 0x55#8, 0x65#8,
          0x75#8, 0x85#8])) ∧
  (∀ (s : State) (k : Keys) (r : Byte) (w : Word) (e : Reject),
    s.nextRequest = .instruction k r → s.halted = false → s.fetch = .ok w →
    decode s.cfg.variant w = .error e →
    step s = .next { s with
      pc := s.pc + 2#16, out := { noSignals with diag := some (.unknownInstruction w s.pc) }
      keys := k, rnd := r, requests := s.requests.tail, fresh := s.fresh + 1 })

/-- R210, R211, R213: the disassembler's text is empty exactly for the words no row matches on the extended
machine; Dxy0 is the draw's text, 00FD is EXIT, an opcode-0 word of no other row is SYS. -/
def Obligations.DisassemblerTextIsEmptyOnUnknownWords : Prop :=
  (∀ w : Word, disassemble w = "" ↔ ∃ e, decode .extended w = .error e) ∧
  (∀ x y : Nibble, disassemble (0xD#4 ++ x ++ y ++ 0x0#4) =
    "DRW " ++ regText x ++ ", " ++ regText y ++ ", 0") ∧
  disassemble 0x00FD#16 = "EXIT" ∧
  (∀ nnn : Addr12, sysTaken .extended nnn = false → disassemble (0x0#4 ++ nnn) = "SYS " ++ addrText nnn)

/-! ## The step -/

/-- R93: when the word at PC decodes to an instruction, a step that serves an instruction request is that
instruction's meaning; around it the step takes the request off the list, latches its key levels and random
byte, clears the output pulses of the step before, and advances the model's own counter. The next request
is the first one listed; with none listed it is a free value (log 3). -/
def Obligations.StepRunsDecodedInstruction : Prop :=
  ∀ (s : State) (w : Word) (i : Instr) (k : Keys) (r : Byte),
    s.halted = false → s.fetch = .ok w → decode s.cfg.variant w = .ok i →
    s.nextRequest = .instruction k r →
    step s = exec i { s with
      keys := k, rnd := r, requests := s.requests.tail, out := noSignals, fresh := s.fresh + 1 }

/-- R36, R93 (decision D21): after EXIT an instruction request does nothing; only the driver's own fields and
the pulses of the step before change. -/
def Obligations.HaltedMachineRunsNothing : Prop :=
  ∀ (s : State) (k : Keys) (r : Byte), s.halted = true → s.nextRequest = .instruction k r →
    step s = .next { s with
      keys := k, rnd := r, requests := s.requests.tail, out := noSignals, fresh := s.fresh + 1 }

/-- R64, R65, R93: the fetch is the byte at PC and the byte at PC + 1, the first the high one; under wrap12
their addresses are taken mod 4096; under the policy fault a PC above 0xFFE makes the step fault at the first
address above 0xFFF. -/
def Obligations.FetchReadsTwoBytesHighFirst : Prop :=
  (∀ s : State, (s.pc.toNat + 1 < memSize ∨ s.cfg.addrPolicy = .wrap12) →
    s.fetch = .ok (s.mem.read (s.pc.toNat % memSize) ++ s.mem.read ((s.pc.toNat + 1) % memSize))) ∧
  (∀ (s : State) (k : Keys) (r : Byte),
    s.nextRequest = .instruction k r → s.halted = false → s.cfg.addrPolicy = .fault →
    memSize ≤ s.pc.toNat + 1 →
    step s = .fault (.addressRange (max s.pc.toNat memSize) s.pc))

/-- R232: a tick takes each timer one toward zero, pulses tone_stopped exactly when ST reaches zero by it, and
touches nothing else; it is enabled also when the machine is halted. -/
def Obligations.TickCountsTimersDown : Prop :=
  ∀ s : State, s.nextRequest = .tick →
    ∃ t, step s = .next t ∧ t.dt.toNat = s.dt.toNat - 1 ∧ t.st.toNat = s.st.toNat - 1 ∧
      (t.out.toneStopped = true ↔ s.st.toNat = 1) ∧ t.out.diag = none ∧ t.out.exitReq = false ∧
      t = { s with dt := t.dt, st := t.st, out := t.out, requests := s.requests.tail, fresh := s.fresh + 1 }

/-- R254 (decision D30): the warm reset sets every element to its construction value and keeps memory, the
RPL flags and the parameters. -/
def Obligations.WarmResetKeepsMemoryAndRpl : Prop :=
  ∀ s : State, s.nextRequest = .reset →
    ∃ t, step s = .next t ∧ t.mem = s.mem ∧ t.rpl = s.rpl ∧ t.cfg = s.cfg ∧ t.pc = 0x200#16 ∧
      t.sp.val = 0 ∧ t.dt = 0#8 ∧ t.st = 0#8 ∧ t.kwait = none ∧ t.halted = false ∧ t.hires = false ∧
      t.fb.w = 64 ∧ t.fb.h = 32 ∧ (∀ cx cy, t.fb.get cx cy = false) ∧ t.keys = s.keys ∧
      t.requests = s.requests.tail ∧
      (s.cfg.regReset = .zero →
        (∀ x, t.reg x = 0#8) ∧ t.idx = 0#16 ∧ ∀ k : Fin 16, t.stk[k] = 0#16)

/-- R42 (decisions D9, D17, D21), R61: the state after construction with the default parameters and an empty
program, and that it meets the model's invariants. The variant, the keys and the random byte in it are the
model's choice (logs 1, 4, 5) and are not stated. -/
def Obligations.ResetStateIsTheConstructionState : Prop :=
  State.reset.pc = 0x200#16 ∧ State.reset.idx = 0#16 ∧ State.reset.sp.val = 0 ∧ State.reset.dt = 0#8 ∧
  State.reset.st = 0#8 ∧ State.reset.hires = false ∧ State.reset.kwait = none ∧
  State.reset.halted = false ∧ State.reset.fb.w = 64 ∧ State.reset.fb.h = 32 ∧
  (∀ x, State.reset.reg x = 0#8) ∧ (∀ k : Fin 16, State.reset.stk[k] = 0#16) ∧
  (∀ k : Fin 8, State.reset.rpl[k] = 0#8) ∧ (∀ cx cy, State.reset.fb.get cx cy = false) ∧
  State.reset.tone = false ∧
  (∀ a, State.reset.mem.read a =
    if 0x050 ≤ a ∧ a ≤ 0x09F then fontBytes.getD (a - 0x050) 0#8 else 0#8) ∧
  State.reset.wf = true ∧ State.reset.latchOk = true

/-- R251: an unreadable source and a stream longer than 3584 bytes yield no machine; any other stream is
stored byte for byte from 0x200 on, the rest of memory and of the state as at construction (R42, whose register
rows are the spec's decision D9, log 7). That the state is well formed rests on the model's canonical lists
(DESIGN CHOICE, log 13). -/
def Obligations.ConstructionLoadsTheProgram : Prop :=
  (∀ c : Config, State.construct c none = .error .loadUnreadable) ∧
  (∀ (c : Config) (bytes : List Byte), 3584 < bytes.length →
    State.construct c (some bytes) = .error (.loadTooLarge bytes.length)) ∧
  (∀ (c : Config) (bytes : List Byte), bytes.length ≤ 3584 →
    ∃ s, State.construct c (some bytes) = .ok s ∧ s = { State.initial c 0 with mem := s.mem } ∧
      (∀ k, k < bytes.length → s.mem.read (0x200 + k) = bytes.getD k 0#8) ∧
      (∀ a, (a < 0x200 ∨ 0x200 + bytes.length ≤ a) → s.mem.read a = initByte a) ∧ s.wf = true)

/-- R10: a step ends in a next state or a fault: no instruction and no step is refused. -/
def Obligations.NothingIsRefused : Prop :=
  (∀ (i : Instr) (s : State) (r : Refusal), exec i s ≠ .refused r) ∧
  (∀ (s : State) (r : Refusal), step s ≠ .refused r)

/-- R220, R224, R226: which instruction can raise which fault, when, and what the fault records. -/
def Obligations.FaultsOnlyAsListed : Prop :=
  ∀ (i : Instr) (s : State) (f : Fault), exec i s = .fault f →
    match f with
    | .stackOverflow v a => (∃ nnn, i = .call nnn) ∧ s.sp.val = 16 ∧ s.cfg.stackPolicy = .fault ∧
        v = s.pc + 2#16 ∧ a = s.pc
    | .stackUnderflow a => i = .ret ∧ s.sp.val = 0 ∧ s.cfg.stackPolicy = .fault ∧ a = s.pc
    | .addressRange b a =>
        ((∃ x y n, i = .drw x y n) ∨ (∃ x y, i = .drw16 x y) ∨ (∃ x, i = .ldB x) ∨
          (∃ x, i = .storeRegs x) ∨ ∃ x, i = .loadRegs x) ∧
        s.cfg.addrPolicy = .fault ∧ memSize ≤ b ∧ s.idx.toNat ≤ b ∧ a = s.pc
    | .operandRange d a =>
        (∃ x, (i = .ldF x ∨ i = .ldHf x ∨ i = .skp x ∨ i = .sknp x) ∧ d = s.reg x) ∧
        15 < d.toNat ∧ s.cfg.digitPolicy = .fault ∧ a = s.pc
    | .framebufferRange x0 y0 a =>
        (∃ x y, (i = .drw16 x y ∨ i = .drw x y 0#4) ∧ x0 = s.drawX x ∧ y0 = s.drawY y ∧ ¬s.fits16 x y) ∧
        s.cfg.variant = .extended ∧ s.cfg.draw16Edge = .fault ∧ a = s.pc

/-- R34, R6: no step changes the variant or any other parameter of the construction. -/
def Obligations.ParametersNeverChange : Prop :=
  ∀ (s t : State), step s = .next t → t.cfg = s.cfg

/-! ## Whole-machine frames -/

/-- R25, R28, R33: no instruction but CALL and RET touches the stack, RET keeps every slot, and none but
LD R,Vx on the extended machine writes an RPL flag. -/
def Obligations.StackAndRplHaveTheirOwnInstructions : Prop :=
  ∀ (i : Instr) (s t : State), exec i s = .next t →
    ((∀ nnn, i ≠ .call nnn) → t.stk = s.stk) ∧
    ((∀ nnn, i ≠ .call nnn) → i ≠ .ret → t.sp = s.sp) ∧
    ((∀ x, i ≠ .storeRpl x) ∨ s.cfg.variant = .base → t.rpl = s.rpl)

/-- R31, R32 (conflict C4): only draw, scroll, clear and the resolution instructions change the framebuffer,
only the resolution instructions its dimensions and HIRES. -/
def Obligations.FramebufferHasItsOwnInstructions : Prop :=
  ∀ (i : Instr) (s t : State), exec i s = .next t →
    (i ≠ .cls → (∀ x y n, i ≠ .drw x y n) → (∀ x y, i ≠ .drw16 x y) → (∀ n, i ≠ .scd n) → i ≠ .scr →
      i ≠ .scl → i ≠ .low → i ≠ .high → t.fb = s.fb) ∧
    (i ≠ .low → i ≠ .high → t.fb.w = s.fb.w ∧ t.fb.h = s.fb.h ∧ t.hires = s.hires)

/-- R67, R20: no instruction but LD B,Vx and LD [I],Vx changes a byte of memory, and a tick changes none. -/
def Obligations.MemoryHasTwoWriters : Prop :=
  (∀ (i : Instr) (s t : State), exec i s = .next t →
    (∀ x, i ≠ .ldB x) → (∀ x, i ≠ .storeRegs x) → ∀ a, t.mem.read a = s.mem.read a) ∧
  (∀ s t : State, s.nextRequest = .tick → step s = .next t →
    ∀ a, t.mem.read a = s.mem.read a)

/-- R21, R22: every register outside the instruction's destination and, where R22 names it, the flag register
keeps its value. -/
def Obligations.RegistersChangeOnlyAsListed : Prop :=
  ∀ (i : Instr) (s t : State), exec i s = .next t → RegsKept s t (mayWrite s.cfg.variant i)

/-- R20, R23: only LD I, ADD I, LD F, LD HF and, on the base machine, the block transfers change I. -/
def Obligations.IndexHasItsOwnInstructions : Prop :=
  ∀ (i : Instr) (s t : State), exec i s = .next t →
    (∀ nnn, i ≠ .ldI nnn) → (∀ x, i ≠ .addI x) → (∀ x, i ≠ .ldF x) → (∀ x, i ≠ .ldHf x) →
    (s.cfg.variant = .extended ∨ ((∀ x, i ≠ .storeRegs x) ∧ ∀ x, i ≠ .loadRegs x)) → t.idx = s.idx

/-- R29, R233: DT and ST never rise but by LD DT,Vx and LD ST,Vx, whatever the driver requests. -/
def Obligations.TimersRiseOnlyByTheirLoads : Prop :=
  ∀ (s t : State), step s = .next t →
    (s.dt.toNat < t.dt.toNat → ∃ w x, s.fetch = .ok w ∧ decode s.cfg.variant w = .ok (.ldDtVx x)) ∧
    (s.st.toNat < t.st.toNat → ∃ w x, s.fetch = .ok w ∧ decode s.cfg.variant w = .ok (.ldStVx x))

/-- R35, R36, R37, R38, R39: no instruction writes the inputs, the driver's requests or the parameters; only
EXIT halts and pulses exit_req; only LD Vx,K moves the key latch; no instruction pulses tone_stopped. -/
def Obligations.ControlStateHasItsOwnInstructions : Prop :=
  ∀ (i : Instr) (s t : State), exec i s = .next t →
    t.keys = s.keys ∧ t.rnd = s.rnd ∧ t.requests = s.requests ∧ t.fresh = s.fresh ∧ t.cfg = s.cfg ∧
    (i ≠ .exitReq → t.halted = s.halted ∧ t.out.exitReq = s.out.exitReq) ∧
    ((∀ x, i ≠ .ldVxK x) → t.kwait = s.kwait) ∧ t.out.toneStopped = s.out.toneStopped

/-- R24: where each instruction leaves PC. -/
def Obligations.PcAfterEachInstruction : Prop :=
  ∀ (i : Instr) (s t : State), exec i s = .next t →
    t.pc.toNat = (match i with
      | .jp nnn | .call nnn => nnn.toNat
      | .ret => if s.sp.val = 0 then 0 else (s.stk.toList.getD (s.sp.val - 1) 0#16).toNat
      | .jpV0 nnn => nnn.toNat +
          (match s.cfg.variant with
            | .base => s.reg 0#4
            | .extended => s.reg (nnn.extractLsb' 8 4)).toNat
      | .seImm x nn => (s.pc.toNat + if s.reg x = nn then 4 else 2) % 65536
      | .sneImm x nn => (s.pc.toNat + if s.reg x = nn then 2 else 4) % 65536
      | .seReg x y => (s.pc.toNat + if s.reg x = s.reg y then 4 else 2) % 65536
      | .sneReg x y => (s.pc.toNat + if s.reg x = s.reg y then 2 else 4) % 65536
      | .skp x => (s.pc.toNat + if s.keys.toList.getD ((s.reg x).toNat % 16) false then 4 else 2) % 65536
      | .sknp x => (s.pc.toNat + if s.keys.toList.getD ((s.reg x).toNat % 16) false then 2 else 4) % 65536
      | .ldVxK _ =>
          match s.kwait with
          | none => s.pc.toNat
          | some k => if s.keys[k] then s.pc.toNat else (s.pc.toNat + 2) % 65536
      | _ => (s.pc.toNat + 2) % 65536)

/-! ## Invariants of every step -/

/-- R31, R32, R23, R60, R64: every step keeps memory and framebuffer in their canonical forms (every listed
byte inside 0x000..0xFFF, every set pixel inside the grid), the dimensions legal and in agreement with HIRES,
and HIRES 0 on the base machine. -/
def Obligations.EveryStepKeepsTheStateWellFormed : Prop :=
  ∀ (s t : State), s.wf = true → step s = .next t → t.wf = true

/-- R35 (an inference the spec marks as its own): every step keeps the key latch's invariant, that a latched
key is held only while the next instruction is an LD Vx,K. -/
def Obligations.EveryStepKeepsTheKeyLatchAtItsInstruction : Prop :=
  ∀ (s t : State), s.latchOk = true → step s = .next t → t.latchOk = true

/-! ## Registers and ALU -/

/-- R141, R142, R143 (general knowledge, G3). -/
def Obligations.LoadsAndImmediateAddWriteOneRegister : Prop :=
  ∀ (s : State) (x y : Nibble) (nn : Byte),
    (∃ t, exec (.ldImm x nn) s = .next t ∧ t.reg x = nn ∧ t.pc = s.pc + 2#16 ∧ RegFrame s t [x]) ∧
    (∃ t, exec (.addImm x nn) s = .next t ∧ (t.reg x).toNat = ((s.reg x).toNat + nn.toNat) % 256 ∧
      t.pc = s.pc + 2#16 ∧ RegFrame s t [x]) ∧
    (∃ t, exec (.ldReg x y) s = .next t ∧ t.reg x = s.reg y ∧ t.pc = s.pc + 2#16 ∧ RegFrame s t [x]) ∧
    (∀ v, decode v (0x6#4 ++ x ++ nn) = .ok (.ldImm x nn) ∧ decode v (0x7#4 ++ x ++ nn) = .ok (.addImm x nn) ∧
      decode v (0x8#4 ++ x ++ y ++ 0x0#4) = .ok (.ldReg x y))

/-- R144, R145, R146: bit by bit results; the base machine clears VF first, the extended machine leaves it;
with x = 15 the result remains (R140, decision D10). -/
def Obligations.LogicClearsTheFlagOnTheBaseMachine : Prop :=
  ∀ (s : State) (x y : Nibble),
    (∀ (i : Instr) (r : Byte),
      (i = .orReg x y ∧ r = s.reg x ||| s.reg y) ∨ (i = .andReg x y ∧ r = s.reg x &&& s.reg y) ∨
        (i = .xorReg x y ∧ r = s.reg x ^^^ s.reg y) →
      ∃ t, exec i s = .next t ∧ t.reg x = r ∧
        (x ≠ flagReg → t.reg flagReg = if s.cfg.variant = .base then 0#8 else s.reg flagReg) ∧
        t.pc = s.pc + 2#16 ∧ RegFrame s t [x, flagReg]) ∧
    (∀ v, decode v (0x8#4 ++ x ++ y ++ 0x1#4) = .ok (.orReg x y) ∧
      decode v (0x8#4 ++ x ++ y ++ 0x2#4) = .ok (.andReg x y) ∧
      decode v (0x8#4 ++ x ++ y ++ 0x3#4) = .ok (.xorReg x y))

/-- R147: the sum mod 256; VF is 1 exactly if the sum exceeds 255, else 0; with x = 15 the sum remains (R140,
decision D10). -/
def Obligations.AddSetsTheCarry : Prop :=
  ∀ (s : State) (x y : Nibble),
    (∃ t, exec (.addReg x y) s = .next t ∧
      (t.reg x).toNat = ((s.reg x).toNat + (s.reg y).toNat) % 256 ∧
      (x ≠ flagReg → t.reg flagReg = if 255 < (s.reg x).toNat + (s.reg y).toNat then 1#8 else 0#8) ∧
      t.pc = s.pc + 2#16 ∧ RegFrame s t [x, flagReg]) ∧
    (∀ v, decode v (0x8#4 ++ x ++ y ++ 0x4#4) = .ok (.addReg x y))

/-- R148, R150: differences mod 256; VF is 1 exactly if the minuend is at least the subtrahend; with x = 15 the
difference remains (R140, decision D10). -/
def Obligations.SubtractSetsNoBorrow : Prop :=
  ∀ (s : State) (x y : Nibble),
    (∃ t, exec (.subReg x y) s = .next t ∧
      (t.reg x).toNat = ((s.reg x).toNat + 256 - (s.reg y).toNat) % 256 ∧
      (x ≠ flagReg → t.reg flagReg = if (s.reg x).toNat < (s.reg y).toNat then 0#8 else 1#8) ∧
      t.pc = s.pc + 2#16 ∧ RegFrame s t [x, flagReg]) ∧
    (∃ t, exec (.subn x y) s = .next t ∧
      (t.reg x).toNat = ((s.reg y).toNat + 256 - (s.reg x).toNat) % 256 ∧
      (x ≠ flagReg → t.reg flagReg = if (s.reg y).toNat < (s.reg x).toNat then 0#8 else 1#8) ∧
      t.pc = s.pc + 2#16 ∧ RegFrame s t [x, flagReg]) ∧
    (∀ v, decode v (0x8#4 ++ x ++ y ++ 0x5#4) = .ok (.subReg x y) ∧
      decode v (0x8#4 ++ x ++ y ++ 0x7#4) = .ok (.subn x y))

/-- R149, R151: the value shifted is V[y] on the base machine and V[x] on the extended one; VF is the bit
shifted out; with x = 15 the result remains (R140, decision D10). -/
def Obligations.ShiftsMoveByOneBit : Prop :=
  ∀ (s : State) (x y : Nibble) (n : Nat),
    n = (if s.cfg.variant = .base then (s.reg y).toNat else (s.reg x).toNat) →
    (∃ t, exec (.shr x y) s = .next t ∧ (t.reg x).toNat = n / 2 ∧
      (x ≠ flagReg → (t.reg flagReg).toNat = n % 2) ∧ t.pc = s.pc + 2#16 ∧ RegFrame s t [x, flagReg]) ∧
    (∃ t, exec (.shl x y) s = .next t ∧ (t.reg x).toNat = n * 2 % 256 ∧
      (x ≠ flagReg → (t.reg flagReg).toNat = n / 128) ∧ t.pc = s.pc + 2#16 ∧ RegFrame s t [x, flagReg]) ∧
    (∀ v, decode v (0x8#4 ++ x ++ y ++ 0x6#4) = .ok (.shr x y) ∧
      decode v (0x8#4 ++ x ++ y ++ 0xE#4) = .ok (.shl x y))

/-- R152: whatever byte the source presents, the register gets it ANDed with the mask. -/
def Obligations.RandomByteIsMasked : Prop :=
  ∀ (s : State) (x : Nibble) (nn : Byte),
    (∃ t, exec (.rnd x nn) s = .next t ∧ t.reg x = s.rnd &&& nn ∧ t.pc = s.pc + 2#16 ∧ RegFrame s t [x]) ∧
    (∀ v, decode v (0xC#4 ++ x ++ nn) = .ok (.rnd x nn))

/-! ## Control flow -/

/-- R121: the target is loaded into PC, and nothing else changes; a jump to its own address changes nothing. -/
def Obligations.JumpLoadsPc : Prop :=
  ∀ (s : State) (nnn : Addr12),
    (∃ t, exec (.jp nnn) s = .next t ∧ t.pc = nnn.setWidth 16 ∧ PcFrame s t) ∧
    (s.pc.toNat = nnn.toNat → exec (.jp nnn) s = .next s) ∧
    (∀ v, decode v (0x1#4 ++ nnn) = .ok (.jp nnn))

/-- R128: the offset register is V[0] on the base machine and V[x], x the high nibble of nnn, on the extended
one (decision D24, conflict C7); the target is not reduced to 12 bits. -/
def Obligations.JumpWithOffsetAddsARegister : Prop :=
  ∀ (s : State) (nnn : Addr12),
    (∃ t, exec (.jpV0 nnn) s = .next t ∧ PcFrame s t ∧
      (s.cfg.variant = .base → t.pc.toNat = nnn.toNat + (s.reg 0#4).toNat) ∧
      (s.cfg.variant = .extended → t.pc.toNat = nnn.toNat + (s.reg (nnn.extractLsb' 8 4)).toNat)) ∧
    (∀ v, decode v (0xB#4 ++ nnn) = .ok (.jpV0 nnn))

/-- R122, R27: with a free slot CALL pushes a + 2 and jumps; on a full stack it faults, or under
legacy_silent only jumps. -/
def Obligations.CallPushesTheReturnAddress : Prop :=
  ∀ (s : State) (nnn : Addr12),
    (∀ k : Fin 16, s.sp.val = k.val →
      ∃ t, exec (.call nnn) s = .next t ∧ t.pc.toNat = nnn.toNat ∧ t.stk[k] = s.pc + 2#16 ∧
        t.sp.val = k.val + 1 ∧ (∀ j : Fin 16, j ≠ k → t.stk[j] = s.stk[j]) ∧ RegsKept s t [] ∧
        BytesKept s t [] ∧ t = { s with stk := t.stk, sp := t.sp, pc := t.pc }) ∧
    (s.sp.val = 16 → s.cfg.stackPolicy = .fault →
      exec (.call nnn) s = .fault (.stackOverflow (s.pc + 2#16) s.pc)) ∧
    (s.sp.val = 16 → s.cfg.stackPolicy = .legacySilent →
      ∃ t, exec (.call nnn) s = .next t ∧ t.pc.toNat = nnn.toNat ∧ PcFrame s t) ∧
    (∀ v, decode v (0x2#4 ++ nnn) = .ok (.call nnn))

/-- R123, R28: RET pops the top slot into PC; on an empty stack it faults, or under legacy_silent goes to
0x0000 (conflict C1). -/
def Obligations.ReturnPopsIntoPc : Prop :=
  ∀ s : State,
    (∀ k : Fin 16, s.sp.val = k.val + 1 →
      ∃ t, exec .ret s = .next t ∧ t.pc = s.stk[k] ∧ t.sp.val = k.val ∧ RegsKept s t [] ∧
        BytesKept s t [] ∧ t = { s with sp := t.sp, pc := t.pc }) ∧
    (s.sp.val = 0 → s.cfg.stackPolicy = .fault → exec .ret s = .fault (.stackUnderflow s.pc)) ∧
    (s.sp.val = 0 → s.cfg.stackPolicy = .legacySilent →
      ∃ t, exec .ret s = .next t ∧ t.pc = 0x0000#16 ∧ PcFrame s t) ∧
    (∀ v, decode v 0x00EE#16 = .ok .ret)

/-- R122, R123, R26: a RET that finds the stack as a CALL left it goes behind the call and leaves the stack
pointer as before the call. -/
def Obligations.ReturnGoesBehindTheCall : Prop :=
  ∀ (s t u : State) (nnn : Addr12), s.sp.val < 16 → exec (.call nnn) s = .next t →
    u.stk = t.stk → u.sp = t.sp →
    ∃ r, exec .ret u = .next r ∧ r.pc = s.pc + 2#16 ∧ r.sp = s.sp ∧ r.stk = t.stk

/-- R124, R125, R126, R127, R129 (general knowledge, G4): a taken skip leaves PC at a + 4, one not taken at
a + 2. -/
def Obligations.SkipsStepOverOneInstruction : Prop :=
  ∀ (s : State) (x y : Nibble) (nn : Byte),
    (∃ t, exec (.seImm x nn) s = .next t ∧ PcFrame s t ∧
      t.pc = if s.reg x = nn then s.pc + 4#16 else s.pc + 2#16) ∧
    (∃ t, exec (.sneImm x nn) s = .next t ∧ PcFrame s t ∧
      t.pc = if s.reg x = nn then s.pc + 2#16 else s.pc + 4#16) ∧
    (∃ t, exec (.seReg x y) s = .next t ∧ PcFrame s t ∧
      t.pc = if s.reg x = s.reg y then s.pc + 4#16 else s.pc + 2#16) ∧
    (∃ t, exec (.sneReg x y) s = .next t ∧ PcFrame s t ∧
      t.pc = if s.reg x = s.reg y then s.pc + 2#16 else s.pc + 4#16) ∧
    (∀ v, decode v (0x3#4 ++ x ++ nn) = .ok (.seImm x nn) ∧ decode v (0x4#4 ++ x ++ nn) = .ok (.sneImm x nn) ∧
      decode v (0x5#4 ++ x ++ y ++ 0x0#4) = .ok (.seReg x y) ∧
      decode v (0x9#4 ++ x ++ y ++ 0x0#4) = .ok (.sneReg x y))

/-- R120 (general knowledge, G5): SYS emits its notice, leaves PC at a + 2 and changes nothing else; it is
every opcode-0 word no other row of the machine takes. -/
def Obligations.SysOnlyGivesANotice : Prop :=
  (∀ (s : State) (nnn : Addr12),
    exec (.sys nnn) s = .next { s with
      pc := s.pc + 2#16, out := { s.out with diag := some (.unimplementedProgramCall nnn s.pc) } }) ∧
  (∀ nnn : Addr12, nnn ≠ 0x0E0#12 → nnn ≠ 0x0EE#12 → decode .base (0x0#4 ++ nnn) = .ok (.sys nnn)) ∧
  (∀ nnn : Addr12, nnn ≠ 0x0E0#12 → nnn ≠ 0x0EE#12 → nnn.toNat / 16 ≠ 0x0C →
    ¬(0x0FB ≤ nnn.toNat ∧ nnn.toNat ≤ 0x0FF) → decode .extended (0x0#4 ++ nnn) = .ok (.sys nnn))

/-! ## Index register and memory -/

/-- R160 (general knowledge, G3), R161: I is loaded, or the register is added mod 2^16; no flag. -/
def Obligations.IndexIsLoadedAndAdded : Prop :=
  ∀ (s : State) (x : Nibble) (nnn : Addr12),
    (∃ t, exec (.ldI nnn) s = .next t ∧ t.idx.toNat = nnn.toNat ∧ t.pc = s.pc + 2#16 ∧ IndexFrame s t) ∧
    (∃ t, exec (.addI x) s = .next t ∧ t.idx.toNat = (s.idx.toNat + (s.reg x).toNat) % 65536 ∧
      t.pc = s.pc + 2#16 ∧ IndexFrame s t) ∧
    (∀ v, decode v (0xA#4 ++ nnn) = .ok (.ldI nnn) ∧ decode v (0xF#4 ++ x ++ 0x1E#8) = .ok (.addI x))

/-- R162, R199 (decisions D11, D13): the glyph addresses of a usable digit, LD HF on the extended machine and
whatever BIGFONT_BASE is; a digit above 15 faults under the default digit policy. -/
def Obligations.GlyphAddressesAreComputed : Prop :=
  ∀ (s : State) (x : Nibble),
    (s.digitOk x →
      (∃ t, exec (.ldF x) s = .next t ∧ t.idx.toNat = 0x050 + 5 * ((s.reg x).toNat % 16) ∧
        t.pc = s.pc + 2#16 ∧ IndexFrame s t) ∧
      (s.cfg.variant = .extended →
        ∃ t, exec (.ldHf x) s = .next t ∧
          t.idx.toNat = (s.cfg.bigFontBase.toNat + 10 * ((s.reg x).toNat % 16)) % 65536 ∧
          t.pc = s.pc + 2#16 ∧ IndexFrame s t)) ∧
    (15 < (s.reg x).toNat → s.cfg.digitPolicy = .fault →
      exec (.ldF x) s = .fault (.operandRange (s.reg x) s.pc) ∧
      (s.cfg.variant = .extended → exec (.ldHf x) s = .fault (.operandRange (s.reg x) s.pc))) ∧
    (∀ v, decode v (0xF#4 ++ x ++ 0x29#8) = .ok (.ldF x)) ∧
    decode .extended (0xF#4 ++ x ++ 0x30#8) = .ok (.ldHf x)

/-- R163 (I unchanged: general knowledge, G15): hundreds, tens and units at I, I+1, I+2. -/
def Obligations.BcdDigitsAreStored : Prop :=
  ∀ (s : State) (x : Nibble), s.reaches 3 →
    ∃ t, exec (.ldB x) s = .next t ∧
      (t.mem.read (s.idx.toNat % memSize)).toNat = (s.reg x).toNat / 100 ∧
      (t.mem.read ((s.idx.toNat + 1) % memSize)).toNat = (s.reg x).toNat / 10 % 10 ∧
      (t.mem.read ((s.idx.toNat + 2) % memSize)).toNat = (s.reg x).toNat % 10 ∧
      t.idx = s.idx ∧ t.pc = s.pc + 2#16 ∧ StoreFrame s t (s.places 3)

/-- R164: registers 0 to x go to memory from I on; the base machine then adds x + 1 to I. Where I + x is above
0xFFF, under the default address policy, the instruction faults and nothing is written (decision D4); under
wrap12 the places are taken mod 4096. -/
def Obligations.RegisterBlockIsStored : Prop :=
  ∀ (s : State) (x : Nibble),
    (s.reaches (x.toNat + 1) →
      ∃ t, exec (.storeRegs x) s = .next t ∧
        (∀ k : Nibble, k.toNat ≤ x.toNat → t.mem.read ((s.idx.toNat + k.toNat) % memSize) = s.reg k) ∧
        (s.cfg.variant = .base → t.idx.toNat = (s.idx.toNat + x.toNat + 1) % 65536) ∧
        (s.cfg.variant = .extended → t.idx = s.idx) ∧ t.pc = s.pc + 2#16 ∧
        StoreFrame s t (s.places (x.toNat + 1))) ∧
    (0xFFF < s.idx.toNat + x.toNat → s.cfg.addrPolicy = .fault →
      exec (.storeRegs x) s = .fault (.addressRange (max s.idx.toNat memSize) s.pc)) ∧
    (∀ v, decode v (0xF#4 ++ x ++ 0x55#8) = .ok (.storeRegs x))

/-- R165: registers 0 to x come from memory from I on; the base machine then adds x + 1 to I. Where I + x is above
0xFFF, under the default address policy, the instruction faults and no register is loaded (decision D4); under
wrap12 the places are taken mod 4096. -/
def Obligations.RegisterBlockIsLoaded : Prop :=
  ∀ (s : State) (x : Nibble),
    (s.reaches (x.toNat + 1) →
      ∃ t, exec (.loadRegs x) s = .next t ∧
        (∀ k : Nibble, k.toNat ≤ x.toNat → t.reg k = s.mem.read ((s.idx.toNat + k.toNat) % memSize)) ∧
        (∀ k : Nibble, x.toNat < k.toNat → t.reg k = s.reg k) ∧
        (s.cfg.variant = .base → t.idx.toNat = (s.idx.toNat + x.toNat + 1) % 65536) ∧
        (s.cfg.variant = .extended → t.idx = s.idx) ∧ t.pc = s.pc + 2#16 ∧ BytesKept s t [] ∧
        t = { s with v := t.v, idx := t.idx, pc := t.pc }) ∧
    (0xFFF < s.idx.toNat + x.toNat → s.cfg.addrPolicy = .fault →
      exec (.loadRegs x) s = .fault (.addressRange (max s.idx.toNat memSize) s.pc)) ∧
    (∀ v, decode v (0xF#4 ++ x ++ 0x65#8) = .ok (.loadRegs x))

/-- R64, R68, R226 (decision D4): under ADDR_POLICY = fault the other transfers that reach above 0xFFF fault as a
whole too, at the lowest address above 0xFFF; the 16 by 16 draw does so before its edge is looked at. -/
def Obligations.BcdAndSpritesBeyondMemoryFault : Prop :=
  ∀ (s : State) (x y n : Nibble), s.cfg.addrPolicy = .fault →
    (memSize < s.idx.toNat + 3 → exec (.ldB x) s = .fault (.addressRange (max s.idx.toNat memSize) s.pc)) ∧
    (n ≠ 0#4 → memSize < s.idx.toNat + n.toNat →
      exec (.drw x y n) s = .fault (.addressRange (max s.idx.toNat memSize) s.pc)) ∧
    (s.cfg.variant = .extended → memSize < s.idx.toNat + 32 →
      exec (.drw16 x y) s = .fault (.addressRange (max s.idx.toNat memSize) s.pc))

/-- R164, R165 (95_test_vectors.md S8): storing registers 0 to x and loading them back from the same I, whatever
the registers held meanwhile, restores them. -/
def Obligations.BlockStoreThenLoadRoundTrips : Prop :=
  ∀ (s t u : State) (x : Nibble), exec (.storeRegs x) s = .next t →
    u.mem = t.mem → u.idx = s.idx → u.cfg = s.cfg →
    ∃ r, exec (.loadRegs x) u = .next r ∧ ∀ k : Nibble, k.toNat ≤ x.toNat → r.reg k = s.reg k

/-! ## Display -/

/-- R171: every pixel clear, the dimensions, HIRES and VF as before. -/
def Obligations.ClsClearsEveryPixel : Prop :=
  ∀ s : State,
    (∃ t, exec .cls s = .next t ∧ (∀ cx cy, t.fb.get cx cy = false) ∧ t.pc = s.pc + 2#16 ∧ PixelFrame s t) ∧
    (∀ v, decode v 0x00E0#16 = .ok .cls)

/-- R172 (decisions D14, D16): the sprite is XORed onto the grid at (V[x] mod W, V[y] mod H), clipped at the
right and bottom edges; VF is the collision. For n = 0 on the extended machine the instruction is the 16 by 16
draw. -/
def Obligations.DrawXorsTheClippedSprite : Prop :=
  ∀ (s : State) (x y n : Nibble),
    ((n ≠ 0#4 ∨ s.cfg.variant = .base) → s.reaches n.toNat →
      ∃ t, exec (.drw x y n) s = .next t ∧ Draws s t (s.covers8 x y n.toNat) ∧ t.pc = s.pc + 2#16 ∧
        DrawFrame s t) ∧
    (s.cfg.variant = .extended → exec (.drw x y 0#4) s = exec (.drw16 x y) s)

/-- R173: the same DRW on the same memory, I and coordinates, with no other framebuffer write between,
restores the grid exactly; the second VF is 1 exactly if the first draw set a pixel. -/
def Obligations.DrawingTwiceRestoresTheGrid : Prop :=
  ∀ (s t u : State) (x y n : Nibble), (n ≠ 0#4 ∨ s.cfg.variant = .base) →
    exec (.drw x y n) s = .next t →
    u.fb = t.fb → u.idx = s.idx → u.cfg = s.cfg → (∀ a, u.mem.read a = s.mem.read a) →
    u.reg x = s.reg x → u.reg y = s.reg y →
    ∃ r, exec (.drw x y n) u = .next r ∧
      (∀ cx cy, cx < s.fb.w → cy < s.fb.h → r.fb.get cx cy = s.fb.get cx cy) ∧
      (s.fb.wf = true → r.fb = s.fb) ∧
      (r.reg flagReg = 1#8 ↔
        ∃ cx cy, cx < s.fb.w ∧ cy < s.fb.h ∧ s.fb.get cx cy = false ∧ t.fb.get cx cy = true)

/-- R197 (decisions D14, D27): a 16 by 16 sprite that fits is XORed onto the grid, whatever DRAW16_EDGE is; on
the base machine the word is a draw of no rows (R98). -/
def Obligations.Draw16XorsTheSpriteThatFits : Prop :=
  ∀ (s : State) (x y : Nibble),
    (s.cfg.variant = .extended → s.reaches 32 → s.fits16 x y →
      ∃ t, exec (.drw16 x y) s = .next t ∧ Draws s t (s.covers16 x y) ∧ t.pc = s.pc + 2#16 ∧
        DrawFrame s t) ∧
    (s.cfg.variant = .base →
      ∃ t, exec (.drw16 x y) s = .next t ∧ (∀ cx cy, t.fb.get cx cy = s.fb.get cx cy) ∧
        t.reg flagReg = 0#8 ∧ t.pc = s.pc + 2#16 ∧ DrawFrame s t)

/-- R197 (decision D15): a 16 by 16 sprite that leaves the grid faults, is clipped, or is wrapped, as
DRAW16_EDGE says. -/
def Obligations.Draw16EdgeFollowsThePolicy : Prop :=
  ∀ (s : State) (x y : Nibble), s.cfg.variant = .extended → s.reaches 32 → ¬s.fits16 x y →
    (s.cfg.draw16Edge = .fault →
      exec (.drw16 x y) s = .fault (.framebufferRange (s.drawX x) (s.drawY y) s.pc)) ∧
    (s.cfg.draw16Edge = .drop →
      ∃ t, exec (.drw16 x y) s = .next t ∧ Draws s t (s.covers16 x y) ∧ t.pc = s.pc + 2#16 ∧
        DrawFrame s t) ∧
    (s.cfg.draw16Edge = .wrap → s.fb.wf = true →
      ∃ t, exec (.drw16 x y) s = .next t ∧ Draws s t (s.covers16Wrapped x y) ∧ t.pc = s.pc + 2#16 ∧
        DrawFrame s t)

/-- R173, R197: the same 16 by 16 draw on the same memory, I, coordinates and parameters, with no other
framebuffer write between, restores the grid exactly, whatever DRAW16_EDGE let the first one draw; the second
VF is 1 exactly if the first draw set a pixel. -/
def Obligations.DrawingTwice16RestoresTheGrid : Prop :=
  ∀ (s t u : State) (x y : Nibble), s.cfg.variant = .extended → s.fb.wf = true →
    exec (.drw16 x y) s = .next t →
    u.fb = t.fb → u.idx = s.idx → u.cfg = s.cfg → (∀ a, u.mem.read a = s.mem.read a) →
    u.reg x = s.reg x → u.reg y = s.reg y →
    ∃ r, exec (.drw16 x y) u = .next r ∧ r.fb = s.fb ∧
      (r.reg flagReg = 1#8 ↔
        ∃ cx cy, cx < s.fb.w ∧ cy < s.fb.h ∧ s.fb.get cx cy = false ∧ t.fb.get cx cy = true)

/-- R190, R191, R192 (the sideways scrolls' cleared columns: R193, decision D26): every pixel of the scrolled
grid; nothing but the grid and PC changes. -/
def Obligations.ScrollsMoveEveryPixel : Prop :=
  ∀ (s : State) (n : Nibble), s.cfg.variant = .extended →
    (∃ t, exec (.scd n) s = .next t ∧ t.pc = s.pc + 2#16 ∧ PixelFrame s t ∧
      ∀ cx cy, cx < s.fb.w → cy < s.fb.h →
        t.fb.get cx cy = if n.toNat ≤ cy then s.fb.get cx (cy - n.toNat) else false) ∧
    (∃ t, exec .scr s = .next t ∧ t.pc = s.pc + 2#16 ∧ PixelFrame s t ∧
      ∀ cx cy, cx < s.fb.w → cy < s.fb.h →
        t.fb.get cx cy = if 4 ≤ cx then s.fb.get (cx - 4) cy else false) ∧
    (∃ t, exec .scl s = .next t ∧ t.pc = s.pc + 2#16 ∧ PixelFrame s t ∧
      ∀ cx cy, cx < s.fb.w → cy < s.fb.h →
        t.fb.get cx cy = if cx + 4 < s.fb.w then s.fb.get (cx + 4) cy else false) ∧
    decode .extended (0x00C#12 ++ n) = .ok (.scd n) ∧ decode .extended 0x00FB#16 = .ok .scr ∧
    decode .extended 0x00FC#16 = .ok .scl

/-- R195, R196 (decision D17, G16): LOW and HIGH give an empty grid of their size, also when the size does not
change. -/
def Obligations.ResolutionSwitchReplacesTheGrid : Prop :=
  ∀ s : State, s.cfg.variant = .extended →
    (∃ t, exec .low s = .next t ∧ t.hires = false ∧ t.fb.w = 64 ∧ t.fb.h = 32 ∧
      (∀ cx cy, t.fb.get cx cy = false) ∧ t.pc = s.pc + 2#16 ∧ RegsKept s t [] ∧ BytesKept s t [] ∧
      t = { s with hires := t.hires, fb := t.fb, pc := t.pc }) ∧
    (∃ t, exec .high s = .next t ∧ t.hires = true ∧ t.fb.w = 128 ∧ t.fb.h = 64 ∧
      (∀ cx cy, t.fb.get cx cy = false) ∧ t.pc = s.pc + 2#16 ∧ RegsKept s t [] ∧ BytesKept s t [] ∧
      t = { s with hires := t.hires, fb := t.fb, pc := t.pc })

/-! ## Exit, RPL, keypad, timers, the base machine -/

/-- R194, R36 (decision D21): EXIT pulses exit_req, sets HALTED and changes nothing else but PC. -/
def Obligations.ExitSignalsAndHalts : Prop :=
  ∀ s : State, s.cfg.variant = .extended →
    exec .exitReq s = .next { s with
      pc := s.pc + 2#16, halted := true, out := { s.out with exitReq := true } }

/-- R200, R201: registers 0 to min(x, 7) to and from the RPL flags; I and memory are not touched. -/
def Obligations.RplTransfersClampAtSeven : Prop :=
  ∀ (s : State) (x : Nibble), s.cfg.variant = .extended →
    (∃ t, exec (.storeRpl x) s = .next t ∧
      (∀ k : Fin 8, k.val ≤ x.toNat → t.rpl[k] = s.reg (BitVec.ofNat 4 k.val)) ∧
      (∀ k : Fin 8, x.toNat < k.val → t.rpl[k] = s.rpl[k]) ∧ t.pc = s.pc + 2#16 ∧ RegsKept s t [] ∧
      BytesKept s t [] ∧ t = { s with rpl := t.rpl, pc := t.pc }) ∧
    (∃ t, exec (.loadRpl x) s = .next t ∧
      (∀ k : Fin 8, k.val ≤ x.toNat → t.reg (BitVec.ofNat 4 k.val) = s.rpl[k]) ∧
      (∀ k : Nibble, (x.toNat < k.toNat ∨ 7 < k.toNat) → t.reg k = s.reg k) ∧ t.pc = s.pc + 2#16 ∧
      BytesKept s t [] ∧ t = { s with v := t.v, pc := t.pc }) ∧
    decode .extended (0xF#4 ++ x ++ 0x75#8) = .ok (.storeRpl x) ∧
    decode .extended (0xF#4 ++ x ++ 0x85#8) = .ok (.loadRpl x)

/-- R181, R182: the key named by V[x] (its low four bits, R180) decides the skip; a value above 15 faults under
the default digit policy (decision D11). -/
def Obligations.KeyQueriesSkip : Prop :=
  ∀ (s : State) (x : Nibble),
    (∀ k : Fin 16, s.digitOk x → k.val = (s.reg x).toNat % 16 →
      (∃ t, exec (.skp x) s = .next t ∧ PcFrame s t ∧
        t.pc = if s.keys[k] = true then s.pc + 4#16 else s.pc + 2#16) ∧
      (∃ t, exec (.sknp x) s = .next t ∧ PcFrame s t ∧
        t.pc = if s.keys[k] = true then s.pc + 2#16 else s.pc + 4#16)) ∧
    (15 < (s.reg x).toNat → s.cfg.digitPolicy = .fault →
      exec (.skp x) s = .fault (.operandRange (s.reg x) s.pc) ∧
      exec (.sknp x) s = .fault (.operandRange (s.reg x) s.pc)) ∧
    (∀ v, decode v (0xE#4 ++ x ++ 0x9E#8) = .ok (.skp x) ∧ decode v (0xE#4 ++ x ++ 0xA1#8) = .ok (.sknp x))

/-- R183 (decision D18, G13): with no key latched the least pressed key is latched, if any; while the latched
key is held nothing changes; on its release its index goes to V[x], the latch is cleared and PC advances. In
the first two cases PC stays at the instruction. -/
def Obligations.KeyWaitLatchesThenCompletesOnRelease : Prop :=
  ∀ (s : State) (x : Nibble),
    (s.kwait = none → (∀ k : Fin 16, s.keys[k] = false) → exec (.ldVxK x) s = .next s) ∧
    (∀ k : Fin 16, s.kwait = none → s.keys[k] = true → (∀ j : Fin 16, j < k → s.keys[j] = false) →
      exec (.ldVxK x) s = .next { s with kwait := some k }) ∧
    (∀ k : Fin 16, s.kwait = some k → s.keys[k] = true → exec (.ldVxK x) s = .next s) ∧
    (∀ k : Fin 16, s.kwait = some k → s.keys[k] = false →
      ∃ t, exec (.ldVxK x) s = .next t ∧ (t.reg x).toNat = k.val ∧ t.kwait = none ∧
        t.pc = s.pc + 2#16 ∧ RegsKept s t [x] ∧ BytesKept s t [] ∧
        t = { s with v := t.v, kwait := t.kwait, pc := t.pc }) ∧
    (∀ v, decode v (0xF#4 ++ x ++ 0x0A#8) = .ok (.ldVxK x))

/-- R184, R185, R186 (decision D32, G14): the three timer copies; writing ST pulses nothing, and the tone level
is ST ≠ 0. -/
def Obligations.TimersAreCopied : Prop :=
  ∀ (s : State) (x : Nibble),
    (∃ t, exec (.ldVxDt x) s = .next t ∧ t.reg x = s.dt ∧ t.pc = s.pc + 2#16 ∧ RegFrame s t [x]) ∧
    (∃ t, exec (.ldDtVx x) s = .next t ∧ t.dt = s.reg x ∧ t.pc = s.pc + 2#16 ∧ RegsKept s t [] ∧
      BytesKept s t [] ∧ t = { s with dt := t.dt, pc := t.pc }) ∧
    (∃ t, exec (.ldStVx x) s = .next t ∧ t.st = s.reg x ∧ (t.tone = true ↔ s.reg x ≠ 0#8) ∧
      t.pc = s.pc + 2#16 ∧ RegsKept s t [] ∧ BytesKept s t [] ∧ t = { s with st := t.st, pc := t.pc }) ∧
    (∀ v, decode v (0xF#4 ++ x ++ 0x07#8) = .ok (.ldVxDt x) ∧
      decode v (0xF#4 ++ x ++ 0x15#8) = .ok (.ldDtVx x) ∧ decode v (0xF#4 ++ x ++ 0x18#8) = .ok (.ldStVx x))

/-- R98, R100 (an inference the spec marks as its own): on the base machine the meanings of the extended
instructions do what their words do there: the SYS notice for opcode 0, the unknown-word notice for opcode F,
and nothing else. -/
def Obligations.ExtendedInstructionsOnTheBaseMachine : Prop :=
  ∀ (s : State) (x : Nibble) (i : Instr), s.cfg.variant = .base →
    (i = .scd x ∨ i = .scr ∨ i = .scl ∨ i = .exitReq ∨ i = .low ∨ i = .high →
      exec i s = .next { s with
        pc := s.pc + 2#16
        out := { s.out with diag := some (.unimplementedProgramCall ((encode i).extractLsb' 0 12) s.pc) } }) ∧
    (i = .ldHf x ∨ i = .storeRpl x ∨ i = .loadRpl x →
      exec i s = .next { s with
        pc := s.pc + 2#16, out := { s.out with diag := some (.unknownInstruction (encode i) s.pc) } })
end

