-- ==== Sys2Proof/Laws/Decode.lean ====
section
/-! SUPPORT. The fields of R91 of a word written in one of the formats of R92, and the decoder's answers on
them, so that proofs about decoding compute on fields and never on single bits. -/

namespace Sys2Proof

/-- A word of the format opcode and address. -/
theorem fields_A (op : Nibble) (a : Addr12) :
    fields (op ++ a) =
      { op := op, x := a.extractLsb' 8 4, y := a.extractLsb' 4 4, n := a.extractLsb' 0 4,
        nn := a.extractLsb' 0 8, nnn := a } := by
  simp only [fields, Fields.mk.injEq]
  refine ⟨?_, ?_, ?_, ?_, ?_, ?_⟩ <;> refine BitVec.eq_of_getLsbD_eq fun i hi => ?_ <;>
    simp only [BitVec.getLsbD_extractLsb', BitVec.getLsbD_append] <;> interval_cases i <;> simp

/-- A word of the format opcode, register and byte. -/
theorem fields_XI (op x : Nibble) (nn : Byte) :
    fields (op ++ x ++ nn) =
      { op := op, x := x, y := nn.extractLsb' 4 4, n := nn.extractLsb' 0 4, nn := nn, nnn := x ++ nn } := by
  simp only [fields, Fields.mk.injEq]
  refine ⟨?_, ?_, ?_, ?_, ?_, ?_⟩ <;> refine BitVec.eq_of_getLsbD_eq fun i hi => ?_ <;>
    simp only [BitVec.getLsbD_extractLsb', BitVec.getLsbD_append] <;> interval_cases i <;> simp

/-- A word of the format opcode, two registers and a nibble. -/
theorem fields_XYN (op x y n : Nibble) :
    fields (op ++ x ++ y ++ n) =
      { op := op, x := x, y := y, n := n, nn := y ++ n, nnn := x ++ y ++ n } := by
  simp only [fields, Fields.mk.injEq]
  refine ⟨?_, ?_, ?_, ?_, ?_, ?_⟩ <;> refine BitVec.eq_of_getLsbD_eq fun i hi => ?_ <;>
    simp only [BitVec.getLsbD_extractLsb', BitVec.getLsbD_append] <;> interval_cases i <;> simp

/-- A word of the row SCD. -/
theorem fields_scd (n : Nibble) :
    fields (0x00C#12 ++ n) =
      { op := 0x0#4, x := 0x0#4, y := 0xC#4, n := n, nn := 0xC#4 ++ n, nnn := 0x0C#8 ++ n } := by
  revert n
  decide

/-- Every word is its fields, put together (R91). -/
theorem word_of_fields (w : Word) : w = (fields w).op ++ (fields w).x ++ (fields w).y ++ (fields w).n := by
  refine BitVec.eq_of_getLsbD_eq fun i hi => ?_
  simp only [fields, BitVec.getLsbD_append, BitVec.getLsbD_extractLsb']
  interval_cases i <;> simp

end Sys2Proof
end

