-- ==== Sys2Proof/Laws/State.lean ====
section
/-! SUPPORT. One lemma per field per update: what each named update of State leaves alone, and what it
writes. -/

namespace Sys2Proof.Machine

/-! ### setReg -/

@[simp] theorem State.setReg_cfg (s : State) (x : Nibble) (b : Byte) : (s.setReg x b).cfg = s.cfg := rfl
@[simp] theorem State.setReg_mem (s : State) (x : Nibble) (b : Byte) : (s.setReg x b).mem = s.mem := rfl
@[simp] theorem State.setReg_idx (s : State) (x : Nibble) (b : Byte) : (s.setReg x b).idx = s.idx := rfl
@[simp] theorem State.setReg_pc (s : State) (x : Nibble) (b : Byte) : (s.setReg x b).pc = s.pc := rfl
@[simp] theorem State.setReg_stk (s : State) (x : Nibble) (b : Byte) : (s.setReg x b).stk = s.stk := rfl
@[simp] theorem State.setReg_sp (s : State) (x : Nibble) (b : Byte) : (s.setReg x b).sp = s.sp := rfl
@[simp] theorem State.setReg_dt (s : State) (x : Nibble) (b : Byte) : (s.setReg x b).dt = s.dt := rfl
@[simp] theorem State.setReg_st (s : State) (x : Nibble) (b : Byte) : (s.setReg x b).st = s.st := rfl
@[simp] theorem State.setReg_hires (s : State) (x : Nibble) (b : Byte) : (s.setReg x b).hires = s.hires := rfl
@[simp] theorem State.setReg_fb (s : State) (x : Nibble) (b : Byte) : (s.setReg x b).fb = s.fb := rfl
@[simp] theorem State.setReg_rpl (s : State) (x : Nibble) (b : Byte) : (s.setReg x b).rpl = s.rpl := rfl
@[simp] theorem State.setReg_kwait (s : State) (x : Nibble) (b : Byte) : (s.setReg x b).kwait = s.kwait := rfl
@[simp] theorem State.setReg_halted (s : State) (x : Nibble) (b : Byte) : (s.setReg x b).halted = s.halted := rfl
@[simp] theorem State.setReg_keys (s : State) (x : Nibble) (b : Byte) : (s.setReg x b).keys = s.keys := rfl
@[simp] theorem State.setReg_rnd (s : State) (x : Nibble) (b : Byte) : (s.setReg x b).rnd = s.rnd := rfl
@[simp] theorem State.setReg_out (s : State) (x : Nibble) (b : Byte) : (s.setReg x b).out = s.out := rfl
@[simp] theorem State.setReg_requests (s : State) (x : Nibble) (b : Byte) : (s.setReg x b).requests = s.requests := rfl
@[simp] theorem State.setReg_fresh (s : State) (x : Nibble) (b : Byte) : (s.setReg x b).fresh = s.fresh := rfl

/-! ### setFirstRegs -/

@[simp] theorem State.setFirstRegs_cfg (s : State) (bytes : List Byte) : (s.setFirstRegs bytes).cfg = s.cfg := rfl
@[simp] theorem State.setFirstRegs_mem (s : State) (bytes : List Byte) : (s.setFirstRegs bytes).mem = s.mem := rfl
@[simp] theorem State.setFirstRegs_idx (s : State) (bytes : List Byte) : (s.setFirstRegs bytes).idx = s.idx := rfl
@[simp] theorem State.setFirstRegs_pc (s : State) (bytes : List Byte) : (s.setFirstRegs bytes).pc = s.pc := rfl
@[simp] theorem State.setFirstRegs_stk (s : State) (bytes : List Byte) : (s.setFirstRegs bytes).stk = s.stk := rfl
@[simp] theorem State.setFirstRegs_sp (s : State) (bytes : List Byte) : (s.setFirstRegs bytes).sp = s.sp := rfl
@[simp] theorem State.setFirstRegs_dt (s : State) (bytes : List Byte) : (s.setFirstRegs bytes).dt = s.dt := rfl
@[simp] theorem State.setFirstRegs_st (s : State) (bytes : List Byte) : (s.setFirstRegs bytes).st = s.st := rfl
@[simp] theorem State.setFirstRegs_hires (s : State) (bytes : List Byte) : (s.setFirstRegs bytes).hires = s.hires := rfl
@[simp] theorem State.setFirstRegs_fb (s : State) (bytes : List Byte) : (s.setFirstRegs bytes).fb = s.fb := rfl
@[simp] theorem State.setFirstRegs_rpl (s : State) (bytes : List Byte) : (s.setFirstRegs bytes).rpl = s.rpl := rfl
@[simp] theorem State.setFirstRegs_kwait (s : State) (bytes : List Byte) : (s.setFirstRegs bytes).kwait = s.kwait := rfl
@[simp] theorem State.setFirstRegs_halted (s : State) (bytes : List Byte) : (s.setFirstRegs bytes).halted = s.halted := rfl
@[simp] theorem State.setFirstRegs_keys (s : State) (bytes : List Byte) : (s.setFirstRegs bytes).keys = s.keys := rfl
@[simp] theorem State.setFirstRegs_rnd (s : State) (bytes : List Byte) : (s.setFirstRegs bytes).rnd = s.rnd := rfl
@[simp] theorem State.setFirstRegs_out (s : State) (bytes : List Byte) : (s.setFirstRegs bytes).out = s.out := rfl
@[simp] theorem State.setFirstRegs_requests (s : State) (bytes : List Byte) : (s.setFirstRegs bytes).requests = s.requests := rfl
@[simp] theorem State.setFirstRegs_fresh (s : State) (bytes : List Byte) : (s.setFirstRegs bytes).fresh = s.fresh := rfl

/-! ### advance -/

@[simp] theorem State.advance_cfg (s : State) : (s.advance).cfg = s.cfg := rfl
@[simp] theorem State.advance_mem (s : State) : (s.advance).mem = s.mem := rfl
@[simp] theorem State.advance_v (s : State) : (s.advance).v = s.v := rfl
@[simp] theorem State.advance_idx (s : State) : (s.advance).idx = s.idx := rfl
@[simp] theorem State.advance_stk (s : State) : (s.advance).stk = s.stk := rfl
@[simp] theorem State.advance_sp (s : State) : (s.advance).sp = s.sp := rfl
@[simp] theorem State.advance_dt (s : State) : (s.advance).dt = s.dt := rfl
@[simp] theorem State.advance_st (s : State) : (s.advance).st = s.st := rfl
@[simp] theorem State.advance_hires (s : State) : (s.advance).hires = s.hires := rfl
@[simp] theorem State.advance_fb (s : State) : (s.advance).fb = s.fb := rfl
@[simp] theorem State.advance_rpl (s : State) : (s.advance).rpl = s.rpl := rfl
@[simp] theorem State.advance_kwait (s : State) : (s.advance).kwait = s.kwait := rfl
@[simp] theorem State.advance_halted (s : State) : (s.advance).halted = s.halted := rfl
@[simp] theorem State.advance_keys (s : State) : (s.advance).keys = s.keys := rfl
@[simp] theorem State.advance_rnd (s : State) : (s.advance).rnd = s.rnd := rfl
@[simp] theorem State.advance_out (s : State) : (s.advance).out = s.out := rfl
@[simp] theorem State.advance_requests (s : State) : (s.advance).requests = s.requests := rfl
@[simp] theorem State.advance_fresh (s : State) : (s.advance).fresh = s.fresh := rfl

/-! ### notify -/

@[simp] theorem State.notify_cfg (s : State) (n : Notice) : (s.notify n).cfg = s.cfg := rfl
@[simp] theorem State.notify_mem (s : State) (n : Notice) : (s.notify n).mem = s.mem := rfl
@[simp] theorem State.notify_v (s : State) (n : Notice) : (s.notify n).v = s.v := rfl
@[simp] theorem State.notify_idx (s : State) (n : Notice) : (s.notify n).idx = s.idx := rfl
@[simp] theorem State.notify_pc (s : State) (n : Notice) : (s.notify n).pc = s.pc := rfl
@[simp] theorem State.notify_stk (s : State) (n : Notice) : (s.notify n).stk = s.stk := rfl
@[simp] theorem State.notify_sp (s : State) (n : Notice) : (s.notify n).sp = s.sp := rfl
@[simp] theorem State.notify_dt (s : State) (n : Notice) : (s.notify n).dt = s.dt := rfl
@[simp] theorem State.notify_st (s : State) (n : Notice) : (s.notify n).st = s.st := rfl
@[simp] theorem State.notify_hires (s : State) (n : Notice) : (s.notify n).hires = s.hires := rfl
@[simp] theorem State.notify_fb (s : State) (n : Notice) : (s.notify n).fb = s.fb := rfl
@[simp] theorem State.notify_rpl (s : State) (n : Notice) : (s.notify n).rpl = s.rpl := rfl
@[simp] theorem State.notify_kwait (s : State) (n : Notice) : (s.notify n).kwait = s.kwait := rfl
@[simp] theorem State.notify_halted (s : State) (n : Notice) : (s.notify n).halted = s.halted := rfl
@[simp] theorem State.notify_keys (s : State) (n : Notice) : (s.notify n).keys = s.keys := rfl
@[simp] theorem State.notify_rnd (s : State) (n : Notice) : (s.notify n).rnd = s.rnd := rfl
@[simp] theorem State.notify_requests (s : State) (n : Notice) : (s.notify n).requests = s.requests := rfl
@[simp] theorem State.notify_fresh (s : State) (n : Notice) : (s.notify n).fresh = s.fresh := rfl

/-! ### withInputs -/

@[simp] theorem State.withInputs_cfg (s : State) (k : Keys) (b : Byte) : (s.withInputs k b).cfg = s.cfg := rfl
@[simp] theorem State.withInputs_mem (s : State) (k : Keys) (b : Byte) : (s.withInputs k b).mem = s.mem := rfl
@[simp] theorem State.withInputs_v (s : State) (k : Keys) (b : Byte) : (s.withInputs k b).v = s.v := rfl
@[simp] theorem State.withInputs_idx (s : State) (k : Keys) (b : Byte) : (s.withInputs k b).idx = s.idx := rfl
@[simp] theorem State.withInputs_pc (s : State) (k : Keys) (b : Byte) : (s.withInputs k b).pc = s.pc := rfl
@[simp] theorem State.withInputs_stk (s : State) (k : Keys) (b : Byte) : (s.withInputs k b).stk = s.stk := rfl
@[simp] theorem State.withInputs_sp (s : State) (k : Keys) (b : Byte) : (s.withInputs k b).sp = s.sp := rfl
@[simp] theorem State.withInputs_dt (s : State) (k : Keys) (b : Byte) : (s.withInputs k b).dt = s.dt := rfl
@[simp] theorem State.withInputs_st (s : State) (k : Keys) (b : Byte) : (s.withInputs k b).st = s.st := rfl
@[simp] theorem State.withInputs_hires (s : State) (k : Keys) (b : Byte) : (s.withInputs k b).hires = s.hires := rfl
@[simp] theorem State.withInputs_fb (s : State) (k : Keys) (b : Byte) : (s.withInputs k b).fb = s.fb := rfl
@[simp] theorem State.withInputs_rpl (s : State) (k : Keys) (b : Byte) : (s.withInputs k b).rpl = s.rpl := rfl
@[simp] theorem State.withInputs_kwait (s : State) (k : Keys) (b : Byte) : (s.withInputs k b).kwait = s.kwait := rfl
@[simp] theorem State.withInputs_halted (s : State) (k : Keys) (b : Byte) : (s.withInputs k b).halted = s.halted := rfl
@[simp] theorem State.withInputs_out (s : State) (k : Keys) (b : Byte) : (s.withInputs k b).out = s.out := rfl
@[simp] theorem State.withInputs_requests (s : State) (k : Keys) (b : Byte) : (s.withInputs k b).requests = s.requests := rfl
@[simp] theorem State.withInputs_fresh (s : State) (k : Keys) (b : Byte) : (s.withInputs k b).fresh = s.fresh := rfl

/-! ### beginStep -/

@[simp] theorem State.beginStep_cfg (s : State) : (s.beginStep).cfg = s.cfg := rfl
@[simp] theorem State.beginStep_mem (s : State) : (s.beginStep).mem = s.mem := rfl
@[simp] theorem State.beginStep_v (s : State) : (s.beginStep).v = s.v := rfl
@[simp] theorem State.beginStep_idx (s : State) : (s.beginStep).idx = s.idx := rfl
@[simp] theorem State.beginStep_pc (s : State) : (s.beginStep).pc = s.pc := rfl
@[simp] theorem State.beginStep_stk (s : State) : (s.beginStep).stk = s.stk := rfl
@[simp] theorem State.beginStep_sp (s : State) : (s.beginStep).sp = s.sp := rfl
@[simp] theorem State.beginStep_dt (s : State) : (s.beginStep).dt = s.dt := rfl
@[simp] theorem State.beginStep_st (s : State) : (s.beginStep).st = s.st := rfl
@[simp] theorem State.beginStep_hires (s : State) : (s.beginStep).hires = s.hires := rfl
@[simp] theorem State.beginStep_fb (s : State) : (s.beginStep).fb = s.fb := rfl
@[simp] theorem State.beginStep_rpl (s : State) : (s.beginStep).rpl = s.rpl := rfl
@[simp] theorem State.beginStep_kwait (s : State) : (s.beginStep).kwait = s.kwait := rfl
@[simp] theorem State.beginStep_halted (s : State) : (s.beginStep).halted = s.halted := rfl
@[simp] theorem State.beginStep_keys (s : State) : (s.beginStep).keys = s.keys := rfl
@[simp] theorem State.beginStep_rnd (s : State) : (s.beginStep).rnd = s.rnd := rfl

/-! ### tick -/

@[simp] theorem State.tick_cfg (s : State) : (s.tick).cfg = s.cfg := rfl
@[simp] theorem State.tick_mem (s : State) : (s.tick).mem = s.mem := rfl
@[simp] theorem State.tick_v (s : State) : (s.tick).v = s.v := rfl
@[simp] theorem State.tick_idx (s : State) : (s.tick).idx = s.idx := rfl
@[simp] theorem State.tick_pc (s : State) : (s.tick).pc = s.pc := rfl
@[simp] theorem State.tick_stk (s : State) : (s.tick).stk = s.stk := rfl
@[simp] theorem State.tick_sp (s : State) : (s.tick).sp = s.sp := rfl
@[simp] theorem State.tick_hires (s : State) : (s.tick).hires = s.hires := rfl
@[simp] theorem State.tick_fb (s : State) : (s.tick).fb = s.fb := rfl
@[simp] theorem State.tick_rpl (s : State) : (s.tick).rpl = s.rpl := rfl
@[simp] theorem State.tick_kwait (s : State) : (s.tick).kwait = s.kwait := rfl
@[simp] theorem State.tick_halted (s : State) : (s.tick).halted = s.halted := rfl
@[simp] theorem State.tick_keys (s : State) : (s.tick).keys = s.keys := rfl
@[simp] theorem State.tick_rnd (s : State) : (s.tick).rnd = s.rnd := rfl
@[simp] theorem State.tick_requests (s : State) : (s.tick).requests = s.requests := rfl
@[simp] theorem State.tick_fresh (s : State) : (s.tick).fresh = s.fresh := rfl

/-! ### What the updates write -/

@[simp] theorem State.advance_pc (s : State) : s.advance.pc = s.pc + 2#16 := rfl

@[simp] theorem State.advance_reg (s : State) (x : Nibble) : s.advance.reg x = s.reg x := rfl

@[simp] theorem State.notify_out (s : State) (n : Notice) :
    (s.notify n).out = { s.out with diag := some n } := rfl

@[simp] theorem State.notify_reg (s : State) (n : Notice) (x : Nibble) : (s.notify n).reg x = s.reg x := rfl

@[simp] theorem State.withInputs_keys (s : State) (k : Keys) (b : Byte) : (s.withInputs k b).keys = k := rfl

@[simp] theorem State.withInputs_rnd (s : State) (k : Keys) (b : Byte) : (s.withInputs k b).rnd = b := rfl

@[simp] theorem State.beginStep_requests (s : State) : s.beginStep.requests = s.requests.tail := rfl

/-- A listed request is the next one (R9). -/
@[simp] theorem State.nextRequest_cons (s : State) (r : Request) (rest : List Request) (h : s.requests = r :: rest) :
    s.nextRequest = r := by rw [State.nextRequest, h]

/-- With no request listed the next one is a free value (R233, U10). -/
@[simp] theorem State.nextRequest_nil (s : State) (h : s.requests = []) :
    s.nextRequest = Config.freeRequest s.fresh := by rw [State.nextRequest, h]

@[simp] theorem State.beginStep_fresh (s : State) : s.beginStep.fresh = s.fresh + 1 := rfl

@[simp] theorem State.beginStep_out (s : State) : s.beginStep.out = noSignals := rfl

/-- Reading a register after writing one (R21: no register aliases another). -/
@[simp] theorem State.reg_setReg (s : State) (x y : Nibble) (b : Byte) :
    (s.setReg x b).reg y = if x = y then b else s.reg y := by
  simp [State.reg, State.setReg, Vector.getElem_set, ← BitVec.toNat_inj]

/-- Register `i` after a block write is the list's byte `i`, where the list reaches it. -/
@[simp] theorem State.reg_setFirstRegs (s : State) (bytes : List Byte) (x : Nibble) :
    (s.setFirstRegs bytes).reg x = bytes.getD x.toNat (s.reg x) := by
  simp [State.reg, State.setFirstRegs]

/-- The two writes of a flag-writing instruction (R140): the result wins where `x` is the flag register. -/
@[simp] theorem State.reg_setFlagged (s : State) (flag : Bool) (x y : Nibble) (b : Byte) :
    (s.setFlagged flag x b).reg y = if x = y then b else if flagReg = y then flagByte flag else s.reg y := by
  simp [State.setFlagged]

/-- A flag-writing instruction changes nothing but registers. -/
theorem State.setFlagged_frame (s : State) (flag : Bool) (x : Nibble) (b : Byte) :
    s.setFlagged flag x b = { s with v := (s.setFlagged flag x b).v } := rfl

/-- OR, AND and XOR change nothing but registers. -/
theorem State.setLogic_frame (s : State) (x : Nibble) (b : Byte) :
    s.setLogic x b = { s with v := (s.setLogic x b).v } := by
  unfold State.setLogic
  split <;> rfl

/-- A skip changes nothing but PC (R129). -/
theorem State.skipIf_eq (s : State) (c : Bool) :
    s.skipIf c = { s with pc := if c then s.pc + 4#16 else s.pc + 2#16 } := by
  cases c
  · rfl
  · simp [State.skipIf, State.advance, BitVec.add_assoc]

@[simp] theorem State.skipIf_pc (s : State) (c : Bool) :
    (s.skipIf c).pc = if c then s.pc + 4#16 else s.pc + 2#16 := by
  rw [State.skipIf_eq]

end Sys2Proof.Machine
end

