-- ==== Sys2Proof/Laws/Framebuffer.lean ====
section
/-! SUPPORT. The framebuffer controller and the draw, pixel by pixel. The laws about `get` hold of every
framebuffer, canonical or not. -/

namespace Sys2Proof.Machine

theorem Framebuffer.get_iff (fb : Framebuffer) (cx cy : Nat) :
    fb.get cx cy = true ↔ ({ cx := cx, cy := cy } : Pixel) ∈ fb.lit := by
  simp only [Framebuffer.get, List.any_eq_true, Bool.and_eq_true, beq_iff_eq]
  constructor
  · rintro ⟨⟨x, y⟩, hp, rfl, rfl⟩
    exact hp
  · exact fun h => ⟨_, h, rfl, rfl⟩

theorem Pixel.mem_insert (p q : Pixel) (l : List Pixel) : q ∈ Pixel.insert p l ↔ q = p ∨ q ∈ l := by
  induction l with
  | nil => simp [Pixel.insert]
  | cons r rest ih =>
    simp only [Pixel.insert]
    split
    · simp
    · simp only [List.mem_cons, ih]
      tauto

/-- `get` after `set` (R170). -/
@[simp] theorem Framebuffer.get_set (fb : Framebuffer) (cx cy x y : Nat) (b : Bool) :
    (fb.set cx cy b).get x y = if x = cx ∧ y = cy then b else fb.get x y := by
  rw [Bool.eq_iff_iff, Framebuffer.get_iff]
  cases b <;> simp only [Framebuffer.set, Bool.false_eq_true, if_false, if_true, Pixel.mem_insert,
    List.mem_filter, Pixel.mk.injEq, Bool.not_eq_true', Bool.and_eq_false_iff, beq_eq_false_iff_ne] <;>
    split <;> simp_all [Framebuffer.get_iff] <;> tauto

@[simp] theorem Framebuffer.set_w (fb : Framebuffer) (cx cy : Nat) (b : Bool) : (fb.set cx cy b).w = fb.w := rfl

@[simp] theorem Framebuffer.set_h (fb : Framebuffer) (cx cy : Nat) (b : Bool) : (fb.set cx cy b).h = fb.h := rfl

/-- No pixel is set after `clear` (R170). -/
@[simp] theorem Framebuffer.get_clear (fb : Framebuffer) (x y : Nat) : fb.clear.get x y = false := rfl

/-- No pixel is set after `replace` (R170). -/
@[simp] theorem Framebuffer.get_replace (w h x y : Nat) : (Framebuffer.replace w h).get x y = false := rfl

/-- One plotted bit (R172): its pixel flips, the collision is remembered. -/
theorem Framebuffer.plot_spec (g : Framebuffer × Bool) (p : Pixel) :
    (∀ x y, (Framebuffer.plot g p).1.get x y = (g.1.get x y ^^ decide ((⟨x, y⟩ : Pixel) = p))) ∧
    (Framebuffer.plot g p).2 = (g.2 || g.1.get p.cx p.cy) ∧
    (Framebuffer.plot g p).1.w = g.1.w ∧ (Framebuffer.plot g p).1.h = g.1.h := by
  obtain ⟨cx, cy⟩ := p
  unfold Framebuffer.plot
  split
  case isTrue h =>
    refine ⟨fun x y => ?_, by simp [h], rfl, rfl⟩
    by_cases hp : x = cx ∧ y = cy
    · obtain ⟨rfl, rfl⟩ := hp
      simp only [Framebuffer.get_set, and_self, if_true, h]
      simp
    · simp [hp]
  case isFalse h =>
    refine ⟨fun x y => ?_, by simp [h], rfl, rfl⟩
    by_cases hp : x = cx ∧ y = cy
    · obtain ⟨rfl, rfl⟩ := hp
      simp only [Bool.not_eq_true] at h
      simp only [Framebuffer.get_set, and_self, if_true, h]
      simp
    · simp [hp]

theorem Framebuffer.foldl_plot_spec (ps : List Pixel) (g : Framebuffer × Bool) (hps : ps.Nodup) :
    (∀ x y, (ps.foldl Framebuffer.plot g).1.get x y = (g.1.get x y ^^ decide ((⟨x, y⟩ : Pixel) ∈ ps))) ∧
    (ps.foldl Framebuffer.plot g).2 = (g.2 || ps.any fun p => g.1.get p.cx p.cy) ∧
    (ps.foldl Framebuffer.plot g).1.w = g.1.w ∧ (ps.foldl Framebuffer.plot g).1.h = g.1.h := by
  induction ps generalizing g with
  | nil => simp
  | cons p rest ih =>
    rw [List.nodup_cons] at hps
    obtain ⟨hget, hhit, hw, hh⟩ := Framebuffer.plot_spec g p
    obtain ⟨iget, ihit, iw, ihh⟩ := ih (Framebuffer.plot g p) hps.2
    simp only [List.foldl_cons]
    refine ⟨fun x y => ?_, ?_, iw.trans hw, ihh.trans hh⟩
    · rw [iget, hget]
      by_cases hx : (⟨x, y⟩ : Pixel) = p
      · have hn : (⟨x, y⟩ : Pixel) ∉ rest := hx ▸ hps.1
        simp [hx, hx ▸ hn]
      · simp [hx]
    · rw [ihit, hhit, List.any_cons, Bool.or_assoc]
      congr 1
      congr 1
      rw [Bool.eq_iff_iff, List.any_eq_true, List.any_eq_true]
      refine exists_congr fun q => and_congr_right fun hq => ?_
      rw [hget]
      have hqp : (⟨q.cx, q.cy⟩ : Pixel) ≠ p := fun h => hps.1 (by rw [← h]; exact hq)
      simp [hqp]

/-- The draw (R172): every plotted pixel flips, no other changes, and a collision is a plotted pixel that
was set. -/
theorem Framebuffer.draw_spec (fb : Framebuffer) (ps : List Pixel) (hps : ps.Nodup) :
    (∀ x y, (fb.draw ps).1.get x y = (fb.get x y ^^ decide ((⟨x, y⟩ : Pixel) ∈ ps))) ∧
    (fb.draw ps).2 = (ps.any fun p => fb.get p.cx p.cy) ∧
    (fb.draw ps).1.w = fb.w ∧ (fb.draw ps).1.h = fb.h := by
  simpa [Framebuffer.draw] using Framebuffer.foldl_plot_spec ps (fb, false) hps

/-- Which pixels a sprite covers (R172): column `c` of row `r` where the row's bit `k - 1 - c` is set. -/
theorem mem_spritePixels {k : Nat} (x0 y0 : Nat) (rows : List (BitVec k)) (p : Pixel) :
    p ∈ spritePixels x0 y0 rows ↔
      ∃ r c, ∃ h : r < rows.length, (rows[r]).getMsbD c = true ∧ p = ⟨x0 + c, y0 + r⟩ := by
  induction rows generalizing y0 with
  | nil => simp [spritePixels]
  | cons row rest ih =>
    simp only [spritePixels, List.mem_append, List.mem_map, rowColumns, List.mem_filter, List.mem_range, ih]
    constructor
    · rintro (⟨c, ⟨hc, hb⟩, rfl⟩ | ⟨r, c, h, hb, rfl⟩)
      · exact ⟨0, c, by simp, by simpa using hb, rfl⟩
      · exact ⟨r + 1, c, by simpa using h, by simpa using hb, by simp; omega⟩
    · rintro ⟨r, c, h, hb, rfl⟩
      cases r with
      | zero =>
        refine .inl ⟨c, ⟨?_, by simpa using hb⟩, rfl⟩
        by_contra hc
        rw [BitVec.getMsbD_of_ge _ _ (Nat.le_of_not_lt hc)] at hb
        cases hb
      | succ r => exact .inr ⟨r, c, by simpa using h, by simpa using hb, by simp; omega⟩

/-- A sprite's pixels are distinct. -/
theorem spritePixels_nodup {k : Nat} (x0 y0 : Nat) (rows : List (BitVec k)) :
    (spritePixels x0 y0 rows).Nodup := by
  induction rows generalizing y0 with
  | nil => simp [spritePixels]
  | cons row rest ih =>
    simp only [spritePixels]
    refine List.Nodup.append ?_ (ih (y0 + 1)) ?_
    · refine List.Nodup.map ?_ (List.nodup_range.filter _)
      intro a b h
      simpa using h
    · intro p hp hq
      obtain ⟨c, -, rfl⟩ := List.mem_map.mp hp
      obtain ⟨r, c', h, -, hq⟩ := (mem_spritePixels x0 (y0 + 1) rest _).mp hq
      simp only [Pixel.mk.injEq] at hq
      omega

/-- Clipping keeps the pixels inside the grid (R172). -/
@[simp] theorem Framebuffer.mem_clip (fb : Framebuffer) (ps : List Pixel) (p : Pixel) :
    p ∈ fb.clip ps ↔ p ∈ ps ∧ p.cx < fb.w ∧ p.cy < fb.h := by
  simp [Framebuffer.clip]

theorem Framebuffer.clip_nodup (fb : Framebuffer) (ps : List Pixel) (h : ps.Nodup) : (fb.clip ps).Nodup :=
  h.filter _

/-- SCD, pixel by pixel (R190). -/
theorem Framebuffer.get_scrollDown (fb : Framebuffer) (n x y : Nat) (hy : y < fb.h) :
    (fb.scrollDown n).get x y = if n ≤ y then fb.get x (y - n) else false := by
  rw [Bool.eq_iff_iff, Framebuffer.get_iff]
  simp only [Framebuffer.scrollDown, List.mem_map, List.mem_filter, decide_eq_true_eq, Pixel.mk.injEq]
  split
  case isTrue h =>
    rw [Framebuffer.get_iff]
    constructor
    · rintro ⟨⟨a, b⟩, ⟨hp, -⟩, rfl, rfl⟩
      simpa using hp
    · exact fun hp => ⟨_, ⟨hp, by simp; omega⟩, rfl, by simp; omega⟩
  case isFalse h =>
    simp only [Bool.false_eq_true, iff_false, not_exists, not_and]
    rintro ⟨a, b⟩ - - hb
    simp only at hb
    omega

/-- SCR, pixel by pixel (R191). -/
theorem Framebuffer.get_scrollRight (fb : Framebuffer) (x y : Nat) (hx : x < fb.w) :
    fb.scrollRight.get x y = if 4 ≤ x then fb.get (x - 4) y else false := by
  rw [Bool.eq_iff_iff, Framebuffer.get_iff]
  simp only [Framebuffer.scrollRight, List.mem_map, List.mem_filter, decide_eq_true_eq, Pixel.mk.injEq]
  split
  case isTrue h =>
    rw [Framebuffer.get_iff]
    constructor
    · rintro ⟨⟨a, b⟩, ⟨hp, -⟩, rfl, rfl⟩
      simpa using hp
    · exact fun hp => ⟨_, ⟨hp, by simp; omega⟩, by simp; omega, rfl⟩
  case isFalse h =>
    simp only [Bool.false_eq_true, iff_false, not_exists, not_and]
    rintro ⟨a, b⟩ - ha
    simp only at ha
    omega

/-- SCL, pixel by pixel (R192). -/
theorem Framebuffer.get_scrollLeft (fb : Framebuffer) (x y : Nat) :
    fb.scrollLeft.get x y = if x + 4 < fb.w then fb.get (x + 4) y else false := by
  rw [Bool.eq_iff_iff, Framebuffer.get_iff]
  simp only [Framebuffer.scrollLeft, List.mem_map, List.mem_filter, Bool.and_eq_true, decide_eq_true_eq,
    Pixel.mk.injEq]
  split
  case isTrue h =>
    rw [Framebuffer.get_iff]
    constructor
    · rintro ⟨⟨a, b⟩, ⟨hp, ha, -⟩, rfl, rfl⟩
      simp only at ha
      simpa [Nat.sub_add_cancel ha] using hp
    · exact fun hp => ⟨_, ⟨hp, by simp, by simpa using h⟩, by simp, rfl⟩
  case isFalse h =>
    simp only [Bool.false_eq_true, iff_false, not_exists, not_and]
    rintro ⟨a, b⟩ ⟨-, ha, hw⟩ hx
    simp only at ha hw hx
    omega

/-! ### The canonical form -/

theorem Pixel.before_iff (p q : Pixel) :
    p.before q = true ↔ p.cy < q.cy ∨ p.cy = q.cy ∧ p.cx < q.cx := by
  simp [Pixel.before]

/-- The set pixels lie inside the grid, in row-major order. -/
def Framebuffer.Sorted (fb : Framebuffer) : Prop :=
  (∀ p ∈ fb.lit, p.cx < fb.w ∧ p.cy < fb.h) ∧ fb.lit.Pairwise fun p q => p.before q = true

theorem Framebuffer.wf_iff (fb : Framebuffer) :
    fb.wf = true ↔ ((fb.w = 64 ∧ fb.h = 32) ∨ (fb.w = 128 ∧ fb.h = 64)) ∧ fb.Sorted := by
  simp [Framebuffer.wf, Framebuffer.Sorted, and_assoc]

/-- No pixel outside a canonical grid is set (R31). -/
theorem Framebuffer.get_outside (fb : Framebuffer) (h : fb.wf = true) (x y : Nat) (hxy : fb.w ≤ x ∨ fb.h ≤ y) :
    fb.get x y = false := by
  rw [Bool.eq_false_iff, Ne, Framebuffer.get_iff]
  intro hp
  have hin : x < fb.w ∧ y < fb.h := ((Framebuffer.wf_iff fb).mp h).2.1 _ hp
  omega

/-- Two canonical grids of the same dimensions that show the same picture are the same data. -/
theorem Framebuffer.ext_of_wf (f g : Framebuffer) (hf : f.wf = true) (hg : g.wf = true) (hw : f.w = g.w)
    (hh : f.h = g.h) (h : ∀ x y, f.get x y = g.get x y) : f = g := by
  have hs := ((Framebuffer.wf_iff f).mp hf).2.2
  have ht := ((Framebuffer.wf_iff g).mp hg).2.2
  have irr : ∀ p q : Pixel, p.before q = true → p ≠ q := by
    rintro p q hb rfl
    rw [Pixel.before_iff] at hb
    omega
  have hl : f.lit = g.lit := by
    refine List.Perm.eq_of_pairwise (le := fun p q : Pixel => p.before q = true) ?_ hs ht ?_
    · intro p q _ _ hab hba
      rw [Pixel.before_iff] at hab hba
      omega
    · rw [List.perm_ext_iff_of_nodup (hs.imp (irr _ _)) (ht.imp (irr _ _))]
      rintro ⟨x, y⟩
      rw [← Framebuffer.get_iff, ← Framebuffer.get_iff, h]
  cases f
  cases g
  simp_all

theorem Pixel.insert_pairwise (p : Pixel) (l : List Pixel) (hl : l.Pairwise fun a b => a.before b = true)
    (hp : p ∉ l) : (Pixel.insert p l).Pairwise fun a b => a.before b = true := by
  induction l with
  | nil => simp [Pixel.insert]
  | cons q rest ih =>
    rw [List.pairwise_cons] at hl
    rw [List.mem_cons, not_or] at hp
    simp only [Pixel.insert]
    split
    case isTrue h =>
      rw [List.pairwise_cons, List.pairwise_cons]
      refine ⟨fun r hr => ?_, hl⟩
      rcases List.mem_cons.mp hr with rfl | hr
      · exact h
      · have h1 := (Pixel.before_iff p q).mp h
        have h2 := (Pixel.before_iff q r).mp (hl.1 r hr)
        rw [Pixel.before_iff]
        omega
    case isFalse h =>
      rw [List.pairwise_cons]
      refine ⟨fun r hr => ?_, ih hl.2 hp.2⟩
      rcases (Pixel.mem_insert p r rest).mp hr with rfl | hr
      · rw [Pixel.before_iff] at h ⊢
        have hne : ¬(r.cx = q.cx ∧ r.cy = q.cy) := fun hc => hp.1 (by cases r; cases q; simp_all)
        omega
      · exact hl.1 r hr

theorem Framebuffer.set_sorted (fb : Framebuffer) (cx cy : Nat) (b : Bool) (h : fb.Sorted)
    (hx : cx < fb.w) (hy : cy < fb.h) : (fb.set cx cy b).Sorted := by
  have hf : ∀ p ∈ fb.lit.filter (fun p => !(p.cx == cx && p.cy == cy)), p.cx < fb.w ∧ p.cy < fb.h :=
    fun p hp => h.1 p (List.mem_filter.mp hp).1
  have hs := h.2.filter (fun p => !(p.cx == cx && p.cy == cy))
  cases b
  · exact ⟨hf, hs⟩
  · refine ⟨fun p hp => ?_, Pixel.insert_pairwise _ _ hs (by simp)⟩
    rcases (Pixel.mem_insert _ p _).mp hp with rfl | hp
    · exact ⟨hx, hy⟩
    · exact hf p hp

/-- A draw inside the grid keeps the canonical form. -/
theorem Framebuffer.draw_wf (fb : Framebuffer) (ps : List Pixel) (h : fb.wf = true)
    (hps : ∀ p ∈ ps, p.cx < fb.w ∧ p.cy < fb.h) : (fb.draw ps).1.wf = true := by
  have key : ∀ (ps : List Pixel) (g : Framebuffer × Bool), g.1.wf = true →
      (∀ p ∈ ps, p.cx < g.1.w ∧ p.cy < g.1.h) → (ps.foldl Framebuffer.plot g).1.wf = true := by
    intro ps
    induction ps with
    | nil => exact fun g hg _ => hg
    | cons p rest ih =>
      intro g hg hp
      obtain ⟨-, -, hw, hh⟩ := Framebuffer.plot_spec g p
      refine ih _ ?_ fun q hq => by rw [hw, hh]; exact hp q (by simp [hq])
      rw [Framebuffer.wf_iff] at hg ⊢
      rw [hw, hh]
      refine ⟨hg.1, ?_⟩
      have hpp := hp p (by simp)
      unfold Framebuffer.plot
      split <;> exact Framebuffer.set_sorted _ _ _ _ hg.2 hpp.1 hpp.2
  exact key ps (fb, false) h hps

/-- Moving the kept pixels by one monotone map keeps the canonical form. -/
theorem Framebuffer.shift_sorted (fb : Framebuffer) (keep : Pixel → Bool) (move : Pixel → Pixel)
    (h : fb.Sorted) (hin : ∀ p, keep p = true → p.cx < fb.w → p.cy < fb.h → (move p).cx < fb.w ∧ (move p).cy < fb.h)
    (hmono : ∀ p q, keep p = true → keep q = true → p.before q = true → (move p).before (move q) = true) :
    ({ fb with lit := (fb.lit.filter keep).map move } : Framebuffer).Sorted := by
  refine ⟨fun p hp => ?_, ?_⟩
  · obtain ⟨q, hq, rfl⟩ := List.mem_map.mp hp
    have hq := List.mem_filter.mp hq
    exact hin q hq.2 (h.1 q hq.1).1 (h.1 q hq.1).2
  · rw [List.pairwise_map]
    refine List.Pairwise.imp_of_mem ?_ (h.2.filter keep)
    exact fun hp hq hb => hmono _ _ (List.mem_filter.mp hp).2 (List.mem_filter.mp hq).2 hb

theorem Framebuffer.scrollDown_wf (fb : Framebuffer) (n : Nat) (h : fb.wf = true) :
    (fb.scrollDown n).wf = true := by
  rw [Framebuffer.wf_iff] at h ⊢
  refine ⟨h.1, Framebuffer.shift_sorted fb _ _ h.2 (fun p hk hx _ => ⟨hx, by simpa using hk⟩) ?_⟩
  intro p q _ _ hb
  rw [Pixel.before_iff] at hb ⊢
  simp only
  omega

theorem Framebuffer.scrollRight_wf (fb : Framebuffer) (h : fb.wf = true) : fb.scrollRight.wf = true := by
  rw [Framebuffer.wf_iff] at h ⊢
  refine ⟨h.1, Framebuffer.shift_sorted fb _ _ h.2 (fun p hk _ hy => ⟨by simpa using hk, hy⟩) ?_⟩
  intro p q _ _ hb
  rw [Pixel.before_iff] at hb ⊢
  simp only
  omega

theorem Framebuffer.scrollLeft_wf (fb : Framebuffer) (h : fb.wf = true) : fb.scrollLeft.wf = true := by
  rw [Framebuffer.wf_iff] at h ⊢
  refine ⟨h.1, Framebuffer.shift_sorted fb _ _ h.2 (fun p _ hx hy => ⟨by simp only; omega, hy⟩) ?_⟩
  intro p q hp hq hb
  rw [Pixel.before_iff] at hb ⊢
  simp only [Bool.and_eq_true, decide_eq_true_eq] at hp hq
  simp only
  omega

theorem Framebuffer.clear_wf (fb : Framebuffer) (h : fb.wf = true) : fb.clear.wf = true := by
  rw [Framebuffer.wf_iff] at h ⊢
  exact ⟨h.1, by simp [Framebuffer.clear], by simp [Framebuffer.clear]⟩

end Sys2Proof.Machine
end

