-- ==== Sys2Proof/Laws/Memory.lean ====
section
/-! SUPPORT. Memory: a read after a write, every write keeps the canonical form, and what a program load
leaves. The read laws hold of every list, canonical or not. -/

namespace Sys2Proof.Machine

theorem Mem.read_erase (m : Mem) (a b : Nat) :
    Mem.read (Mem.erase a m) b = if b = a then initByte a else Mem.read m b := by
  induction m with
  | nil => by_cases h : b = a <;> simp [Mem.erase, Mem.read, h]
  | cons c rest ih =>
    obtain ⟨d, y⟩ := c
    simp only [Mem.erase] at ih
    by_cases hd : d = a
    · subst hd
      simp only [Mem.erase, List.filter_cons, bne_self_eq_false, Bool.false_eq_true, if_false, ih, Mem.read]
      by_cases hb : b = d
      · simp [hb]
      · simp [hb, Ne.symm hb]
    · simp only [Mem.erase, List.filter_cons, bne_iff_ne.mpr hd, if_true, Mem.read, ih]
      by_cases hb : b = a
      · subst hb
        simp [hd]
      · simp [hb]

theorem Mem.read_insert (m : Mem) (a b : Nat) (x : Byte) (ha : ∀ c ∈ m, c.1 ≠ a) :
    Mem.read (Mem.insert a x m) b = if b = a then x else Mem.read m b := by
  induction m with
  | nil => simp [Mem.insert, Mem.read, eq_comm]
  | cons c rest ih =>
    obtain ⟨d, y⟩ := c
    have hd : d ≠ a := ha (d, y) (by simp)
    have hrest := ih fun c hc => ha c (by simp [hc])
    simp only [Mem.insert]
    split
    · simp [Mem.read, eq_comm]
    · simp only [Mem.read, hrest]
      by_cases hb : b = a
      · simp [hb, hd]
      · simp [hb]

/-- Reading after a write (R62, R63): the byte written at its address, the old byte elsewhere. -/
@[simp] theorem Mem.read_write (m : Mem) (a b : Nat) (x : Byte) :
    (m.write a x).read b = if b = a then x else m.read b := by
  unfold Mem.write
  split
  case isTrue h =>
    rw [Mem.read_erase]
    simp [h]
  case isFalse =>
    rw [Mem.read_insert _ _ _ _ (by simp [Mem.erase]), Mem.read_erase]
    by_cases hb : b = a <;> simp [hb]

/-- The canonical form as a proposition. -/
theorem Mem.wf_iff (m : Mem) :
    m.wf = true ↔ m.Pairwise (fun c d => c.1 < d.1) ∧ ∀ c ∈ m, c.1 < memSize ∧ c.2 ≠ initByte c.1 := by
  induction m with
  | nil => simp [Mem.wf]
  | cons c rest ih =>
    obtain ⟨a, x⟩ := c
    simp only [Mem.wf, Bool.and_eq_true, decide_eq_true_eq, bne_iff_ne, List.all_eq_true, ih,
      List.pairwise_cons, List.mem_cons, forall_eq_or_imp]
    tauto

theorem Mem.mem_insert (m : Mem) (a : Nat) (x : Byte) (c : Host.Cell) :
    c ∈ Mem.insert a x m ↔ c = (a, x) ∨ c ∈ m := by
  induction m with
  | nil => simp [Mem.insert]
  | cons d rest ih =>
    obtain ⟨b, y⟩ := d
    simp only [Mem.insert]
    split
    · simp
    · simp only [List.mem_cons, ih]
      tauto

theorem Mem.insert_pairwise (m : Mem) (a : Nat) (x : Byte) (hm : m.Pairwise fun c d => c.1 < d.1)
    (ha : ∀ c ∈ m, c.1 ≠ a) : (Mem.insert a x m).Pairwise fun c d => c.1 < d.1 := by
  induction m with
  | nil => simp [Mem.insert]
  | cons d rest ih =>
    obtain ⟨b, y⟩ := d
    rw [List.pairwise_cons] at hm
    have hb : b ≠ a := ha (b, y) (by simp)
    simp only [Mem.insert]
    split
    case isTrue h =>
      simp only [List.pairwise_cons, List.mem_cons, forall_eq_or_imp]
      exact ⟨⟨h, fun c hc => Nat.lt_trans h (hm.1 c hc)⟩, hm⟩
    case isFalse h =>
      rw [List.pairwise_cons]
      refine ⟨fun c hc => ?_, ih hm.2 fun c hc => ha c (by simp [hc])⟩
      rcases (Mem.mem_insert rest a x c).mp hc with rfl | hc
      · exact Nat.lt_of_le_of_ne (Nat.le_of_not_lt h) hb
      · exact hm.1 c hc

/-- A write inside the address space keeps the canonical form. -/
theorem Mem.write_wf (m : Mem) (a : Nat) (x : Byte) (hm : m.wf = true) (ha : a < memSize) :
    (m.write a x).wf = true := by
  rw [Mem.wf_iff] at hm ⊢
  have he : (Mem.erase a m).Pairwise fun c d => c.1 < d.1 := hm.1.filter _
  have hmem : ∀ c ∈ Mem.erase a m, c ∈ m ∧ c.1 ≠ a := by simp [Mem.erase]
  unfold Mem.write
  split
  case isTrue => exact ⟨he, fun c hc => hm.2 c (hmem c hc).1⟩
  case isFalse h =>
    refine ⟨Mem.insert_pairwise _ _ _ he fun c hc => (hmem c hc).2, fun c hc => ?_⟩
    rcases (Mem.mem_insert _ a x c).mp hc with rfl | hc
    · exact ⟨ha, h⟩
    · exact hm.2 c (hmem c hc).1

/-- A load inside the address space keeps the canonical form. -/
theorem Mem.load_wf (m : Mem) (bytes : List Byte) (a : Nat) (hm : m.wf = true)
    (ha : a + bytes.length ≤ memSize) : (Mem.load m a bytes).wf = true := by
  induction bytes generalizing m a with
  | nil => exact hm
  | cons b rest ih =>
    simp only [List.length_cons] at ha
    exact ih _ _ (Mem.write_wf m a b hm (by omega)) (by omega)

/-- What a load leaves at an address (R251): its byte inside the loaded range, the old byte outside. -/
theorem Mem.read_load (m : Mem) (bytes : List Byte) (a b : Nat) :
    (Mem.load m a bytes).read b =
      if a ≤ b ∧ b < a + bytes.length then bytes.getD (b - a) 0#8 else m.read b := by
  induction bytes generalizing m a with
  | nil => simp [Mem.load, show ¬(a ≤ b ∧ b < a) by omega]
  | cons c rest ih =>
    rw [Mem.load, ih, Mem.read_write, List.length_cons]
    by_cases hba : b = a
    · subst hba
      rw [if_neg (by omega), if_pos (by omega)]
      simp
    · rw [if_neg hba]
      by_cases hin : a + 1 ≤ b ∧ b < a + 1 + rest.length
      · rw [if_pos hin, if_pos (by omega)]
        obtain ⟨k, hk⟩ : ∃ k, b - a = k + 1 := ⟨b - a - 1, by omega⟩
        simp [hk, show b - (a + 1) = k by omega]
      · rw [if_neg hin, if_neg (by omega)]

/-- In a canonical memory a listed cell is what its address reads as. -/
theorem Mem.read_of_mem (m : Mem) (hm : m.wf = true) (c : Host.Cell) (hc : c ∈ m) : m.read c.1 = c.2 := by
  induction m with
  | nil => simp at hc
  | cons d rest ih =>
    obtain ⟨b, y⟩ := d
    simp only [Mem.wf, Bool.and_eq_true, List.all_eq_true, decide_eq_true_eq] at hm
    rcases List.mem_cons.mp hc with rfl | hr
    · simp [Mem.read]
    · have hlt := hm.1.2 c hr
      simp only [Mem.read, if_neg (Nat.ne_of_lt hlt)]
      exact ih hm.2 hr

/-- In a canonical memory an address that does not read as its construction content is listed. -/
theorem Mem.mem_of_read (m : Mem) (a : Nat) (h : m.read a ≠ initByte a) : (a, m.read a) ∈ m := by
  induction m with
  | nil => simp [Mem.read] at h
  | cons d rest ih =>
    obtain ⟨b, y⟩ := d
    by_cases hb : b = a
    · simp [Mem.read, hb]
    · simp only [Mem.read, if_neg hb] at h ⊢
      exact List.mem_cons_of_mem _ (ih h)

/-- Two canonical memories that read alike everywhere are the same data. -/
theorem Mem.ext_of_wf (m n : Mem) (hm : m.wf = true) (hn : n.wf = true)
    (h : ∀ a, m.read a = n.read a) : m = n := by
  have sub : ∀ (m n : Mem), m.wf = true → (∀ a, m.read a = n.read a) → ∀ c ∈ m, c ∈ n := by
    intro m n hm h c hc
    have hread := Mem.read_of_mem m hm c hc
    have hne := (((Mem.wf_iff m).mp hm).2 c hc).2
    have := Mem.mem_of_read n c.1 (by rw [← h, hread]; exact hne)
    rwa [← h, hread] at this
  have hs := ((Mem.wf_iff m).mp hm).1
  have ht := ((Mem.wf_iff n).mp hn).1
  refine List.Perm.eq_of_pairwise (le := fun c d : Host.Cell => c.1 < d.1)
    (fun _ _ _ _ hab hba => absurd hab (Nat.lt_asymm hba)) hs ht ?_
  rw [List.perm_ext_iff_of_nodup (hs.imp fun hab hc => absurd (hc ▸ hab) (Nat.lt_irrefl _))
    (ht.imp fun hab hc => absurd (hc ▸ hab) (Nat.lt_irrefl _))]
  exact fun c => ⟨sub m n hm h c, sub n m hn (fun a => (h a).symm) c⟩

end Sys2Proof.Machine
end

