-- ==== Sys2Proof/Laws/Ops.lean ====
section
/-! SUPPORT. One lemma per shared operation that says everything it can do: raising, the address policy,
reads and writes of several bytes, the stack, digits, the register block, the 16 by 16 pixels. -/

namespace Sys2Proof.Machine

/-! ### Raising -/

@[simp] theorem orRaise_ok {α : Type} (a : α) (k : α → Result) : orRaise (.ok a) k = k a := rfl

@[simp] theorem orRaise_error {α : Type} (f : Fault) (k : α → Result) : orRaise (.error f) k = .fault f := rfl

/-- A step that raises or goes on answers a next state only by going on. -/
theorem orRaise_next {α : Type} (r : Except Fault α) (k : α → Result) (t : State) :
    orRaise r k = .next t ↔ ∃ a, r = .ok a ∧ k a = .next t := by
  cases r <;> simp

/-- A step that raises or goes on faults by raising, or later. -/
theorem orRaise_fault {α : Type} (r : Except Fault α) (k : α → Result) (f : Fault) :
    orRaise r k = .fault f ↔ r = .error f ∨ ∃ a, r = .ok a ∧ k a = .fault f := by
  cases r <;> simp

/-- A step that raises or goes on is refused only by going on. -/
theorem orRaise_refused {α : Type} (r : Except Fault α) (k : α → Result) (e : Refusal) :
    orRaise r k = .refused e ↔ ∃ a, r = .ok a ∧ k a = .refused e := by
  cases r <;> simp

/-! ### Memory accesses -/

/-- `n` accesses from `addr` on raise no AddressRange (R64). -/
def State.inReach (s : State) (addr n : Nat) : Prop :=
  n = 0 ∨ addr + n ≤ memSize ∨ s.cfg.addrPolicy = .wrap12

theorem State.reaches_iff (s : State) (n : Nat) : s.reaches n ↔ s.inReach s.idx.toNat n := Iff.rfl

theorem State.resolve_ok (s : State) (addr : Nat) (h : s.inReach addr 1) :
    s.resolve addr = .ok (addr % memSize) := by
  unfold State.resolve
  split
  case isTrue h => rw [Nat.mod_eq_of_lt h]
  case isFalse hn =>
    rcases h with h | h | h
    · cases h
    · omega
    · rw [h]

theorem State.resolve_error (s : State) (addr : Nat) (h : memSize ≤ addr) (hp : s.cfg.addrPolicy = .fault) :
    s.resolve addr = .error (.addressRange addr s.pc) := by
  rw [State.resolve, if_neg (Nat.not_lt.mpr h), hp]

/-- An address that resolves lies inside the address space. -/
theorem State.resolve_lt (s : State) (addr a : Nat) (h : s.resolve addr = .ok a) : a < memSize := by
  unfold State.resolve at h
  split at h
  · cases h
    assumption
  · split at h
    · cases h
    · cases h
      exact Nat.mod_lt _ (by decide)

theorem State.readByte_ok (s : State) (addr : Nat) (h : s.inReach addr 1) :
    s.readByte addr = .ok (s.mem.read (addr % memSize)) := by
  rw [State.readByte, State.resolve_ok s addr h]

theorem State.readByte_error (s : State) (addr : Nat) (h : memSize ≤ addr) (hp : s.cfg.addrPolicy = .fault) :
    s.readByte addr = .error (.addressRange addr s.pc) := by
  rw [State.readByte, State.resolve_error s addr h hp]

theorem State.inReach_split (s : State) (addr n : Nat) (h : s.inReach addr (n + 1)) :
    s.inReach addr 1 ∧ s.inReach (addr + 1) n := by
  rcases h with h | h | h
  · cases h
  · exact ⟨.inr (.inl (by omega)), .inr (.inl (by omega))⟩
  · exact ⟨.inr (.inr h), .inr (.inr h)⟩

/-- Several reads in reach (R67): the bytes in ascending order. -/
theorem State.readBytes_ok (s : State) (addr n : Nat) (h : s.inReach addr n) :
    s.readBytes addr n = .ok ((List.range n).map fun k => s.mem.read ((addr + k) % memSize)) := by
  induction n generalizing addr with
  | zero => rfl
  | succ n ih =>
    obtain ⟨h1, h2⟩ := s.inReach_split addr n h
    simp only [State.readBytes, State.readByte_ok s addr h1, ih (addr + 1) h2, List.range_succ_eq_map,
      List.map_cons, List.map_map, Nat.add_zero]
    congr 2
    refine List.map_congr_left fun k _ => ?_
    simp only [Function.comp_apply]
    congr 2
    omega

/-- Several reads out of reach (R68, R226): the lowest offending address is reported. -/
theorem State.readBytes_error (s : State) (addr n : Nat) (h : memSize < addr + n) (hn : 0 < n)
    (hp : s.cfg.addrPolicy = .fault) :
    s.readBytes addr n = .error (.addressRange (max addr memSize) s.pc) := by
  induction n generalizing addr with
  | zero => omega
  | succ n ih =>
    by_cases ha : memSize ≤ addr
    · simp only [State.readBytes, State.readByte_error s addr ha hp, Nat.max_eq_left ha]
    · have h1 : s.inReach addr 1 := .inr (.inl (by omega))
      have hm : max (addr + 1) memSize = max addr memSize := by omega
      simp only [State.readBytes, State.readByte_ok s addr h1, ih (addr + 1) (by omega) (by omega), hm]

theorem State.readBytes_length (s : State) (addr n : Nat) (l : List Byte) (h : s.readBytes addr n = .ok l) :
    l.length = n := by
  induction n generalizing addr l with
  | zero =>
    cases h
    rfl
  | succ n ih =>
    simp only [State.readBytes] at h
    split at h
    · split at h
      · cases h
        simp [ih _ _ (by assumption)]
      · cases h
    · cases h

/-- A read faults only with AddressRange, at an address above 0xFFF, under the policy `fault` (R64). -/
theorem State.readBytes_fault (s : State) (addr n : Nat) (f : Fault) (h : s.readBytes addr n = .error f) :
    s.cfg.addrPolicy = .fault ∧ ∃ b, memSize ≤ b ∧ addr ≤ b ∧ b < addr + n ∧ f = .addressRange b s.pc := by
  by_cases hr : s.inReach addr n
  · rw [State.readBytes_ok s addr n hr] at h
    cases h
  · simp only [State.inReach, not_or] at hr
    have hp : s.cfg.addrPolicy = .fault := by
      cases hq : s.cfg.addrPolicy with
      | fault => rfl
      | wrap12 => exact absurd hq hr.2.2
    cases n with
    | zero => cases h
    | succ n =>
      rw [State.readBytes_error s addr _ (by omega) (by omega) hp] at h
      cases h
      exact ⟨hp, _, Nat.le_max_right _ _, Nat.le_max_left _ _, by omega, rfl⟩

/-- Several writes change memory alone, and keep its canonical form. -/
theorem State.writeBytes_frame (s t : State) (addr : Nat) (bytes : List Byte)
    (h : s.writeBytes addr bytes = .ok t) :
    t = { s with mem := t.mem } ∧ (s.mem.wf = true → t.mem.wf = true) := by
  induction bytes generalizing s addr with
  | nil =>
    cases h
    exact ⟨rfl, id⟩
  | cons b rest ih =>
    simp only [State.writeBytes, State.writeByte] at h
    cases hres : s.resolve addr with
    | error f =>
      rw [hres] at h
      cases h
    | ok a =>
      rw [hres] at h
      obtain ⟨h1, h2⟩ := ih _ _ h
      exact ⟨h1, fun hm => h2 (Mem.write_wf _ _ _ hm (s.resolve_lt _ _ hres))⟩

/-- Several writes in reach (R67): every byte in its place, every other byte as before. -/
theorem State.writeBytes_ok (s : State) (addr : Nat) (bytes : List Byte) (h : s.inReach addr bytes.length)
    (hlen : bytes.length ≤ memSize) :
    ∃ m : Mem, s.writeBytes addr bytes = .ok { s with mem := m } ∧
      (∀ k, k < bytes.length → m.read ((addr + k) % memSize) = bytes.getD k 0#8) ∧
      (∀ a, (∀ k, k < bytes.length → (addr + k) % memSize ≠ a) → m.read a = s.mem.read a) := by
  induction bytes generalizing s addr with
  | nil => exact ⟨s.mem, rfl, by simp, fun _ _ => rfl⟩
  | cons b rest ih =>
    rw [List.length_cons] at h hlen
    obtain ⟨h1, h2⟩ := s.inReach_split addr rest.length h
    obtain ⟨m, hw, hin, hout⟩ := ih { s with mem := s.mem.write (addr % memSize) b } (addr + 1) h2 (by omega)
    refine ⟨m, ?_, ?_, ?_⟩
    · simp only [State.writeBytes, State.writeByte, State.resolve_ok s addr h1, hw]
    · intro k hk
      cases k with
      | zero =>
        rw [hout]
        · simp
        · intro k hk
          simp only [memSize] at hlen ⊢
          omega
      | succ k =>
        have := hin k (by simpa using hk)
        rw [show addr + (k + 1) = addr + 1 + k by omega, this]
        simp
    · intro a ha
      rw [hout a fun k hk => ?_]
      · have h0 := ha 0 (by simp)
        rw [Nat.add_zero] at h0
        simp [Mem.read_write, Ne.symm h0]
      · have := ha (k + 1) (by simpa using hk)
        rwa [show addr + (k + 1) = addr + 1 + k by omega] at this

/-- Several writes out of reach (R68, R226): nothing is written, the lowest offending address is reported. -/
theorem State.writeBytes_error (s : State) (addr : Nat) (bytes : List Byte)
    (h : memSize < addr + bytes.length) (hn : bytes ≠ []) (hp : s.cfg.addrPolicy = .fault) :
    s.writeBytes addr bytes = .error (.addressRange (max addr memSize) s.pc) := by
  induction bytes generalizing s addr with
  | nil => exact absurd rfl hn
  | cons b rest ih =>
    rw [List.length_cons] at h
    by_cases ha : memSize ≤ addr
    · simp only [State.writeBytes, State.writeByte, State.resolve_error s addr ha hp, Nat.max_eq_left ha]
    · have h1 : s.inReach addr 1 := .inr (.inl (by omega))
      have hrest : rest ≠ [] := by
        rintro rfl
        simp at h
        omega
      have hm : max (addr + 1) memSize = max addr memSize := by omega
      simp only [State.writeBytes, State.writeByte, State.resolve_ok s addr h1,
        ih { s with mem := s.mem.write (addr % memSize) b } (addr + 1) (by omega) hrest hp, hm]

/-- A write faults only with AddressRange, at an address above 0xFFF, under the policy `fault` (R64). -/
theorem State.writeBytes_fault (s : State) (addr : Nat) (bytes : List Byte) (f : Fault)
    (hlen : bytes.length ≤ memSize) (h : s.writeBytes addr bytes = .error f) :
    s.cfg.addrPolicy = .fault ∧ ∃ b, memSize ≤ b ∧ addr ≤ b ∧ b < addr + bytes.length ∧ f = .addressRange b s.pc := by
  by_cases hr : s.inReach addr bytes.length
  · obtain ⟨m, hm, -⟩ := State.writeBytes_ok s addr bytes hr hlen
    rw [hm] at h
    cases h
  · simp only [State.inReach, not_or] at hr
    have hp : s.cfg.addrPolicy = .fault := by
      cases hq : s.cfg.addrPolicy with
      | fault => rfl
      | wrap12 => exact absurd hq hr.2.2
    by_cases hb : bytes = []
    · subst hb
      cases h
    · rw [State.writeBytes_error s addr bytes (by omega) hb hp] at h
      cases h
      have := List.length_pos_iff.mpr hb
      exact ⟨hp, _, Nat.le_max_right _ _, Nat.le_max_left _ _, by omega, rfl⟩

/-! ### Registers in a block -/

@[simp] theorem State.firstRegs_length (s : State) (n : Nat) : (s.firstRegs n).length = n := by
  simp [State.firstRegs]

theorem State.firstRegs_getD (s : State) (n k : Nat) (h : k < n) (d : Byte) :
    (s.firstRegs n).getD k d = s.reg (BitVec.ofNat 4 k) := by
  simp [State.firstRegs, List.getD_eq_getElem?_getD, h]

@[simp] theorem bcdDigits_length (b : Byte) : (bcdDigits b).length = 3 := rfl

/-! ### The stack -/

/-- A push on a stack with a free slot (R27). -/
theorem State.push_ok (s : State) (v : Word) (h : s.sp.val < 16) :
    s.push v = .ok { s with stk := s.stk.set s.sp.val v h, sp := ⟨s.sp.val + 1, Nat.succ_lt_succ h⟩ } := by
  rw [State.push, dif_pos h]

/-- A push on a full stack (R27): the policy decides. -/
theorem State.push_full (s : State) (v : Word) (h : s.sp.val = 16) :
    s.push v = match s.cfg.stackPolicy with
      | .fault => .error (.stackOverflow v s.pc)
      | .legacySilent => .ok s := by
  unfold State.push
  cases s.cfg.stackPolicy <;> exact dif_neg (by omega)

/-- Whatever a push does, it changes the stack alone. -/
theorem State.push_frame (s t : State) (v : Word) (h : s.push v = .ok t) :
    t = { s with stk := t.stk, sp := t.sp } := by
  unfold State.push at h
  split at h
  · cases h
    rfl
  · split at h
    · cases h
    · cases h
      rfl

/-- A pop from a stack that holds an address (R28). -/
theorem State.pop_ok (s : State) (h : 0 < s.sp.val) :
    ∃ k : Fin 16, ∃ sp : Fin 17, k.val + 1 = s.sp.val ∧ sp.val = k.val ∧
      s.pop = .ok (s.stk[k], { s with sp := sp }) := by
  have hlt := s.sp.isLt
  refine ⟨⟨s.sp.val - 1, by omega⟩, ⟨s.sp.val - 1, by omega⟩, by simp only; omega, rfl, ?_⟩
  rw [State.pop, dif_pos h]
  rfl

/-- A pop from an empty stack (R28): the policy decides. -/
theorem State.pop_empty (s : State) (h : s.sp.val = 0) :
    s.pop = match s.cfg.stackPolicy with
      | .fault => .error (.stackUnderflow s.pc)
      | .legacySilent => .ok (0x0000#16, s) := by
  unfold State.pop
  cases s.cfg.stackPolicy <;> exact dif_neg (by omega)

/-- Whatever a pop does, it changes the stack pointer alone. -/
theorem State.pop_frame (s t : State) (v : Word) (h : s.pop = .ok (v, t)) : t = { s with sp := t.sp } := by
  unfold State.pop at h
  split at h
  · cases h
    rfl
  · split at h
    · cases h
    · cases h
      rfl

/-! ### Digits -/

/-- A usable digit (R162, R180, R199): the low four bits of the register, all of it up to 15. -/
theorem State.digit_ok (s : State) (x : Nibble) (h : s.digitOk x) :
    s.digit x = .ok ((s.reg x).extractLsb' 0 4) := by
  unfold State.digit
  split
  · rfl
  case isFalse hn =>
    rcases h with h | h
    · exact absurd h hn
    · rw [h]

/-- A digit above 15 under the policy `fault` (R162, R180, R199). -/
theorem State.digit_error (s : State) (x : Nibble) (h : ¬s.reg x ≤ 15#8) (hp : s.cfg.digitPolicy = .fault) :
    s.digit x = .error (.operandRange (s.reg x) s.pc) := by
  rw [State.digit, if_neg h, hp]

/-- A digit faults only so. -/
theorem State.digit_fault (s : State) (x : Nibble) (f : Fault) (h : s.digit x = .error f) :
    ¬s.reg x ≤ 15#8 ∧ s.cfg.digitPolicy = .fault ∧ f = .operandRange (s.reg x) s.pc := by
  unfold State.digit at h
  split at h
  · cases h
  case isFalse hn =>
    split at h
    case h_1 hp =>
      cases h
      exact ⟨hn, hp, rfl⟩
    · cases h

/-! ### The 16 by 16 pixels -/

theorem pairRows_length (l : List Byte) (n : Nat) (h : l.length = 2 * n) : (pairRows l).length = n := by
  induction n generalizing l with
  | zero =>
    rw [Nat.mul_zero, List.length_eq_zero_iff] at h
    subst h
    rfl
  | succ n ih =>
    match l, h with
    | a :: b :: rest, h =>
      simp only [pairRows, List.length_cons]
      rw [ih rest (by simp only [List.length_cons] at h; omega)]

/-- Row `r` of a 16 by 16 sprite is the bytes `2 r` and `2 r + 1`, the left half first (R197). -/
theorem pairRows_getD (l : List Byte) (r : Nat) (h : 2 * r + 1 < l.length) :
    (pairRows l).getD r 0#16 = l.getD (2 * r) 0#8 ++ l.getD (2 * r + 1) 0#8 := by
  induction r generalizing l with
  | zero =>
    match l, h with
    | a :: b :: rest, _ => rfl
  | succ r ih =>
    match l, h with
    | a :: b :: rest, h =>
      have := ih rest (by simp only [List.length_cons] at h; omega)
      simpa [pairRows, Nat.mul_add] using this
    | [a], h => simp at h
    | [], h => simp at h

/-- A pixel of a sprite of `k` columns lies within `k` columns and the number of rows of its corner. -/
theorem spritePixels_bounds {k : Nat} (x0 y0 : Nat) (rows : List (BitVec k)) (p : Pixel)
    (hp : p ∈ spritePixels x0 y0 rows) :
    x0 ≤ p.cx ∧ p.cx < x0 + k ∧ y0 ≤ p.cy ∧ p.cy < y0 + rows.length := by
  obtain ⟨r, c, hr, hb, rfl⟩ := (mem_spritePixels x0 y0 rows p).mp hp
  have hc : c < k := by
    by_contra hc
    rw [BitVec.getMsbD_of_ge _ _ (Nat.le_of_not_lt hc)] at hb
    cases hb
  simp only
  omega

/-- Whatever `DRAW16_EDGE` says, the pixels of a 16 by 16 sprite are inside the grid and distinct. -/
theorem State.pixels16_ok (s : State) (x0 y0 : Nat) (rows : List Word) (ps : List Pixel) (hfb : s.fb.wf = true)
    (hrows : rows.length = 16) (h : s.pixels16 x0 y0 (spritePixels x0 y0 rows) = .ok ps) :
    ps.Nodup ∧ ∀ p ∈ ps, p.cx < s.fb.w ∧ p.cy < s.fb.h := by
  have hnd := spritePixels_nodup x0 y0 rows
  have hb := spritePixels_bounds x0 y0 rows
  rw [hrows] at hb
  have hdim := ((Framebuffer.wf_iff s.fb).mp hfb).1
  unfold State.pixels16 at h
  split at h
  case isTrue hfit =>
    cases h
    refine ⟨hnd, fun p hp => ?_⟩
    have := hb p hp
    omega
  · split at h
    · cases h
    · cases h
      exact ⟨Framebuffer.clip_nodup _ _ hnd, fun p hp => ((Framebuffer.mem_clip _ _ _).mp hp).2⟩
    · cases h
      refine ⟨?_, fun p hp => ?_⟩
      · refine List.Nodup.map_on ?_ hnd
        rintro ⟨a, b⟩ hp ⟨c, d⟩ hq heq
        have h1 := hb _ hp
        have h2 := hb _ hq
        simp only [Pixel.mk.injEq] at heq h1 h2 ⊢
        rcases hdim with ⟨hw, hh⟩ | ⟨hw, hh⟩ <;> rw [hw, hh] at heq <;> omega
      · obtain ⟨q, -, rfl⟩ := List.mem_map.mp hp
        exact ⟨Nat.mod_lt _ (by omega), Nat.mod_lt _ (by omega)⟩

end Sys2Proof.Machine
end

