-- ==== Sys2Proof/Laws/Exec.lean ====
section
/-! SUPPORT. What each meaning can do, said once: where it answers a next state, which fields of it differ
from the state before, and how. Proofs over all instructions cite these in place of unfolding a meaning. -/

namespace Sys2Proof.Machine

/-- A meaning of the extended machine alone is SYS on the base machine, or has its effect. -/
theorem next_of_gate {v : Variant} {a b t : State}
    (h : (match v with
      | .extended => Host.Outcome.next a
      | .base => Host.Outcome.next b : Result) = .next t) :
    (v = .extended ∧ t = a) ∨ (v = .base ∧ t = b) := by
  cases v <;> cases h
  · exact .inr ⟨rfl, rfl⟩
  · exact .inl ⟨rfl, rfl⟩

/-- CALL changes the stack and PC (R122). -/
theorem execCall_next (nnn : Addr12) (s t : State) (h : execCall nnn s = .next t) :
    t = { s with stk := t.stk, sp := t.sp, pc := nnn.setWidth 16 } := by
  obtain ⟨a, ha, h⟩ := (orRaise_next _ _ _).mp h
  rw [State.push_frame _ _ _ ha] at h
  cases h
  rfl

/-- RET changes the stack pointer and PC (R123). -/
theorem execRet_next (s t : State) (h : execRet s = .next t) :
    t = { s with sp := t.sp, pc := t.pc } ∧
    t.pc = if 0 < s.sp.val then s.stk.toList.getD (s.sp.val - 1) 0#16 else 0x0000#16 := by
  obtain ⟨⟨v, u⟩, hp, h⟩ := (orRaise_next _ _ _).mp h
  have hu := State.pop_frame _ _ _ hp
  have hv : v = if 0 < s.sp.val then s.stk.toList.getD (s.sp.val - 1) 0#16 else 0x0000#16 := by
    have hlt := s.sp.isLt
    unfold State.pop at hp
    split at hp
    case isTrue h0 =>
      cases hp
      rw [if_pos h0, List.getD_eq_getElem?_getD, List.getElem?_eq_getElem (by simp; omega)]
      simp
    case isFalse h0 =>
      rw [if_neg h0]
      split at hp <;> cases hp
      rfl
  rw [hu] at h
  cases h
  exact ⟨rfl, hv⟩

/-- OR, AND and XOR change registers alone, on the extended machine one of them (R144 to R146). -/
theorem State.reg_setLogic (s : State) (x r : Nibble) (b : Byte) :
    (s.setLogic x b).reg r =
      if x = r then b else if flagReg = r ∧ s.cfg.variant = .base then 0#8 else s.reg r := by
  unfold State.setLogic
  cases s.cfg.variant <;> simp [flagByte]

/-- A usable digit is the low four bits of the register. -/
theorem State.digit_eq (s : State) (x d : Nibble) (h : s.digit x = .ok d) : d = (s.reg x).extractLsb' 0 4 := by
  unfold State.digit at h
  split at h
  · cases h
    rfl
  · split at h <;> cases h
    rfl

/-- LD F and, on the extended machine, LD HF change `I` and PC (R162, R199). -/
theorem execLdF_next (x : Nibble) (s t : State) (h : execLdF x s = .next t) :
    t = { s with idx := t.idx, pc := s.pc + 2#16 } := by
  obtain ⟨d, -, h⟩ := (orRaise_next _ _ _).mp h
  cases h
  rfl

theorem execLdHf_next (x : Nibble) (s t : State) (h : execLdHf x s = .next t) :
    (s.cfg.variant = .extended ∧ t = { s with idx := t.idx, pc := s.pc + 2#16 }) ∨
    (s.cfg.variant = .base ∧ t = s.unknownNotice (0xF#4 ++ x ++ 0x30#8)) := by
  unfold execLdHf at h
  split at h
  case h_1 hv =>
    obtain ⟨d, -, h⟩ := (orRaise_next _ _ _).mp h
    cases h
    exact .inl ⟨hv, rfl⟩
  case h_2 hv =>
    cases h
    exact .inr ⟨hv, rfl⟩

/-- LD B changes memory and PC, and keeps memory's form (R163). -/
theorem execLdB_next (x : Nibble) (s t : State) (h : execLdB x s = .next t) :
    t = { s with mem := t.mem, pc := s.pc + 2#16 } ∧ (s.mem.wf = true → t.mem.wf = true) := by
  obtain ⟨a, ha, h⟩ := (orRaise_next _ _ _).mp h
  obtain ⟨h1, h2⟩ := State.writeBytes_frame _ _ _ _ ha
  rw [h1] at h
  cases h
  exact ⟨rfl, h2⟩

/-- LD [I],Vx changes memory, PC and, on the base machine, `I` (R164). -/
theorem execStoreRegs_next (x : Nibble) (s t : State) (h : execStoreRegs x s = .next t) :
    t = { s with mem := t.mem, idx := s.indexAfterBlock x, pc := s.pc + 2#16 } ∧
    (s.mem.wf = true → t.mem.wf = true) := by
  obtain ⟨a, ha, h⟩ := (orRaise_next _ _ _).mp h
  obtain ⟨h1, h2⟩ := State.writeBytes_frame _ _ _ _ ha
  rw [h1] at h
  cases h
  exact ⟨rfl, h2⟩

/-- LD Vx,[I] changes registers 0 to x, PC and, on the base machine, `I` (R165). -/
theorem execLoadRegs_next (x : Nibble) (s t : State) (h : execLoadRegs x s = .next t) :
    t = { s with v := t.v, idx := s.indexAfterBlock x, pc := s.pc + 2#16 } ∧
    ∃ bytes, s.readBytes s.idx.toNat (x.toNat + 1) = .ok bytes ∧
      ∀ r : Nibble, t.reg r = bytes.getD r.toNat (s.reg r) := by
  obtain ⟨bytes, hb, h⟩ := (orRaise_next _ _ _).mp h
  simp only [Host.Outcome.next.injEq] at h
  subst h
  refine ⟨?_, bytes, hb, fun r => ?_⟩
  · simp only [State.setFirstRegs, State.advance]
  · have hreg := s.reg_setFirstRegs bytes r
    exact hreg

/-- LD Vx,[I] leaves the registers above x (R165). -/
theorem execLoadRegs_above (x : Nibble) (s t : State) (h : execLoadRegs x s = .next t) (r : Nibble)
    (hr : x.toNat < r.toNat) : t.reg r = s.reg r := by
  obtain ⟨-, bytes, hb, hreg⟩ := execLoadRegs_next x s t h
  have hl := State.readBytes_length _ _ _ _ hb
  rw [hreg, List.getD_eq_default _ _ (by omega)]

/-- LD Vx,[I] answers a next state where its bytes are in reach (R165). -/
theorem execLoadRegs_ok (x : Nibble) (s : State) (h : s.inReach s.idx.toNat (x.toNat + 1)) :
    ∃ t, execLoadRegs x s = .next t := by
  unfold execLoadRegs
  rw [State.readBytes_ok _ _ _ h, orRaise_ok]
  exact ⟨_, rfl⟩

/-- A draw keeps the dimensions. -/
theorem Framebuffer.draw_dims (fb : Framebuffer) (ps : List Pixel) :
    (fb.draw ps).1.w = fb.w ∧ (fb.draw ps).1.h = fb.h := by
  have key : ∀ (ps : List Pixel) (g : Framebuffer × Bool),
      (ps.foldl Framebuffer.plot g).1.w = g.1.w ∧ (ps.foldl Framebuffer.plot g).1.h = g.1.h := by
    intro ps
    induction ps with
    | nil => exact fun g => ⟨rfl, rfl⟩
    | cons p rest ih =>
      intro g
      obtain ⟨-, -, hw, hh⟩ := Framebuffer.plot_spec g p
      exact ⟨(ih _).1.trans hw, (ih _).2.trans hh⟩
  exact key ps (fb, false)

/-- The end of a draw changes the flag register, the framebuffer and PC. -/
theorem State.drawn_eq (s : State) (g : Framebuffer × Bool) :
    s.drawn g = { s.setReg flagReg (flagByte g.2) with fb := g.1, pc := s.pc + 2#16 } := rfl

/-- A draw changes the flag register, the framebuffer and PC (R172). -/
theorem State.drawRows_next (x y : Nibble) (n : Nat) (s t : State) (h : s.drawRows x y n = .next t) :
    ∃ g : Framebuffer × Bool, t = s.drawn g ∧ g.1.w = s.fb.w ∧ g.1.h = s.fb.h ∧
      (s.fb.wf = true → g.1.wf = true) := by
  obtain ⟨rows, -, h⟩ := (orRaise_next _ _ _).mp h
  cases h
  exact ⟨_, rfl, (Framebuffer.draw_dims _ _).1, (Framebuffer.draw_dims _ _).2,
    fun hw => Framebuffer.draw_wf _ _ hw fun p hp => ((Framebuffer.mem_clip _ _ _).mp hp).2⟩

/-- The 16 by 16 draw changes the flag register, the framebuffer and PC (R197). -/
theorem State.draw16_next (x y : Nibble) (s t : State) (h : s.draw16 x y = .next t) :
    ∃ g : Framebuffer × Bool, t = s.drawn g ∧ g.1.w = s.fb.w ∧ g.1.h = s.fb.h ∧
      (s.fb.wf = true → g.1.wf = true) := by
  obtain ⟨bytes, hb, h⟩ := (orRaise_next _ _ _).mp h
  obtain ⟨ps, hps, h⟩ := (orRaise_next _ _ _).mp h
  have hl := pairRows_length bytes 16 (State.readBytes_length _ _ _ _ hb)
  cases h
  exact ⟨_, rfl, (Framebuffer.draw_dims _ _).1, (Framebuffer.draw_dims _ _).2,
    fun hw => Framebuffer.draw_wf _ _ hw (State.pixels16_ok _ _ _ _ _ hw hl hps).2⟩

/-- Every draw changes the flag register, the framebuffer and PC, keeps the dimensions and the
framebuffer's form (R172, R197). -/
theorem exec_draw_next (i : Instr) (s t : State) (hi : (∃ x y n, i = .drw x y n) ∨ ∃ x y, i = .drw16 x y)
    (h : exec i s = .next t) :
    ∃ g : Framebuffer × Bool, t = s.drawn g ∧ g.1.w = s.fb.w ∧ g.1.h = s.fb.h ∧
      (s.fb.wf = true → g.1.wf = true) := by
  rcases hi with ⟨x, y, n, rfl⟩ | ⟨x, y, rfl⟩
  · simp only [exec, execDrw] at h
    split at h
    · exact State.draw16_next _ _ _ _ h
    · exact State.drawRows_next _ _ _ _ _ h
  · simp only [exec, execDrw16] at h
    split at h
    · exact State.draw16_next _ _ _ _ h
    · exact State.drawRows_next _ _ _ _ _ h

/-- LD Vx,K moves the latch, or completes (R183). -/
theorem execLdVxK_next (x : Nibble) (s t : State) (h : execLdVxK x s = .next t) :
    (s.kwait = none ∧ t = { s with kwait := s.firstKey }) ∨
    (∃ k, s.kwait = some k ∧ s.key k = true ∧ t = s) ∨
    (∃ k, s.kwait = some k ∧ s.key k = false ∧
      t = { s.setReg x (BitVec.ofNat 8 k.val) with pc := s.pc + 2#16, kwait := none }) := by
  unfold execLdVxK at h
  split at h
  case h_1 hk =>
    cases h
    exact .inl ⟨hk, rfl⟩
  case h_2 k hk =>
    split at h
    case isTrue hd =>
      cases h
      exact .inr (.inl ⟨k, hk, hd, rfl⟩)
    case isFalse hd =>
      cases h
      exact .inr (.inr ⟨k, hk, by simpa using hd, rfl⟩)

/-- SKP and SKNP change PC alone (R181, R182). -/
theorem execSkp_next (x : Nibble) (s t : State) (h : execSkp x s = .next t) :
    t = s.skipIf (s.key ((s.reg x).extractLsb' 0 4).toFin) := by
  obtain ⟨d, hd, h⟩ := (orRaise_next _ _ _).mp h
  rw [State.digit_eq _ _ _ hd] at h
  cases h
  rfl

theorem execSknp_next (x : Nibble) (s t : State) (h : execSknp x s = .next t) :
    t = s.skipIf (!s.key ((s.reg x).extractLsb' 0 4).toFin) := by
  obtain ⟨d, hd, h⟩ := (orRaise_next _ _ _).mp h
  rw [State.digit_eq _ _ _ hd] at h
  cases h
  rfl

/-! ### The step -/

/-- What a step serves, by the kind of the next request (R9, R93, R232, R254). -/
theorem step_of_instruction (s : State) (k : Keys) (r : Byte) (h : s.nextRequest = .instruction k r) :
    step s = (s.beginStep.withInputs k r).instructionStep := by rw [step, h, State.serve]

theorem step_of_tick (s : State) (h : s.nextRequest = .tick) : step s = .next s.beginStep.tick := by
  rw [step, h, State.serve]

theorem step_of_reset (s : State) (h : s.nextRequest = .reset) : step s = .next s.beginStep.warmReset := by
  rw [step, h, State.serve]

/-- Everything an instruction step that goes on can do (R93): nothing after EXIT, the decoded instruction, or
the notice of an unknown word. -/
theorem State.instructionStep_next (s t : State) (h : s.instructionStep = .next t) :
    (s.halted = true ∧ t = s) ∨
    (s.halted = false ∧ ∃ w, s.fetch = .ok w ∧
      ((∃ i, decode s.cfg.variant w = .ok i ∧ exec i s = .next t) ∨
        ∃ e, decode s.cfg.variant w = .error e ∧ t = s.unknownNotice w)) := by
  unfold State.instructionStep at h
  split at h
  case isTrue hh =>
    cases h
    exact .inl ⟨hh, rfl⟩
  case isFalse hh =>
    obtain ⟨w, hw, h⟩ := (orRaise_next _ _ _).mp h
    refine .inr ⟨Bool.eq_false_iff.mpr hh, w, hw, ?_⟩
    unfold State.execute at h
    split at h
    · exact .inl ⟨_, ‹_›, h⟩
    · cases h
      exact .inr ⟨_, ‹_›, rfl⟩

/-- Everything a step that goes on can do (R9), whatever the driver requests. -/
theorem step_next (s t : State) (h : step s = .next t) :
    (∃ k r, s.nextRequest = .instruction k r ∧ (s.beginStep.withInputs k r).instructionStep = .next t) ∨
    (s.nextRequest = .tick ∧ t = s.beginStep.tick) ∨ (s.nextRequest = .reset ∧ t = s.beginStep.warmReset) := by
  cases hr : s.nextRequest with
  | instruction k r => exact .inl ⟨k, r, rfl, step_of_instruction s k r hr ▸ h⟩
  | tick =>
    rw [step_of_tick s hr] at h
    cases h
    exact .inr (.inl ⟨rfl, rfl⟩)
  | reset =>
    rw [step_of_reset s hr] at h
    cases h
    exact .inr (.inr ⟨rfl, rfl⟩)

end Sys2Proof.Machine
end

