-- ==== Sys2Proof/Laws/PerInstr.lean ====
section
/-! SUPPORT. Per instruction: its word carries the fixed bits of its row of the opcode map (30_encoding.md
R95, R96), and its row is one of the map's. -/

namespace Sys2Proof.Laws

/-- `(encode i & mask) = match` for the row of `i`, and the row is listed. -/
def TableRow.Statement (i : Instr) : Prop :=
  encode i &&& i.row.mask = i.row.value ∧ i.row ∈ opcodeMap

/-- The fixed bits of each format (R92), by bits. -/
theorem fixed_A (op : Nibble) (a : Addr12) : (op ++ a : Word) &&& 0xF000#16 = op ++ 0#12 := by
  ext i hi
  simp only [BitVec.getElem_and, BitVec.getElem_append]
  interval_cases i <;> simp

theorem fixed_XI (op x : Nibble) (b : Byte) : (op ++ x ++ b : Word) &&& 0xF000#16 = op ++ 0#12 := by
  ext i hi
  simp only [BitVec.getElem_and, BitVec.getElem_append]
  interval_cases i <;> simp

theorem fixed_XY (op x y n : Nibble) : (op ++ x ++ y ++ n : Word) &&& 0xF00F#16 = op ++ 0#8 ++ n := by
  ext i hi
  simp only [BitVec.getElem_and, BitVec.getElem_append]
  interval_cases i <;> simp

theorem fixed_XYN (op x y n : Nibble) : (op ++ x ++ y ++ n : Word) &&& 0xF000#16 = op ++ 0#12 := by
  ext i hi
  simp only [BitVec.getElem_and, BitVec.getElem_append]
  interval_cases i <;> simp

theorem fixed_X (op x : Nibble) (b : Byte) : (op ++ x ++ b : Word) &&& 0xF0FF#16 = op ++ 0#4 ++ b := by
  ext i hi
  simp only [BitVec.getElem_and, BitVec.getElem_append]
  interval_cases i <;> simp

theorem fixed_N (c : Addr12) (n : Nibble) : (c ++ n : Word) &&& 0xFFF0#16 = c ++ 0#4 := by
  ext i hi
  simp only [BitVec.getElem_and, BitVec.getElem_append]
  interval_cases i <;> simp

theorem TableRow.scd (n : Nibble) : TableRow.Statement (.scd n) := ⟨(fixed_N _ _).trans (by rfl), by simp [Instr.row, opcodeMap]⟩
theorem TableRow.cls : TableRow.Statement (.cls) := ⟨by decide, by decide⟩
theorem TableRow.ret : TableRow.Statement (.ret) := ⟨by decide, by decide⟩
theorem TableRow.scr : TableRow.Statement (.scr) := ⟨by decide, by decide⟩
theorem TableRow.scl : TableRow.Statement (.scl) := ⟨by decide, by decide⟩
theorem TableRow.exitReq : TableRow.Statement (.exitReq) := ⟨by decide, by decide⟩
theorem TableRow.low : TableRow.Statement (.low) := ⟨by decide, by decide⟩
theorem TableRow.high : TableRow.Statement (.high) := ⟨by decide, by decide⟩
theorem TableRow.sys (nnn : Addr12) : TableRow.Statement (.sys nnn) := ⟨(fixed_A _ _).trans (by rfl), by simp [Instr.row, opcodeMap]⟩
theorem TableRow.jp (nnn : Addr12) : TableRow.Statement (.jp nnn) := ⟨(fixed_A _ _).trans (by rfl), by simp [Instr.row, opcodeMap]⟩
theorem TableRow.call (nnn : Addr12) : TableRow.Statement (.call nnn) := ⟨(fixed_A _ _).trans (by rfl), by simp [Instr.row, opcodeMap]⟩
theorem TableRow.seImm (x : Nibble) (nn : Byte) : TableRow.Statement (.seImm x nn) := ⟨(fixed_XI _ _ _).trans (by rfl), by simp [Instr.row, opcodeMap]⟩
theorem TableRow.sneImm (x : Nibble) (nn : Byte) : TableRow.Statement (.sneImm x nn) := ⟨(fixed_XI _ _ _).trans (by rfl), by simp [Instr.row, opcodeMap]⟩
theorem TableRow.seReg (x : Nibble) (y : Nibble) : TableRow.Statement (.seReg x y) := ⟨(fixed_XY _ _ _ _).trans (by rfl), by simp [Instr.row, opcodeMap]⟩
theorem TableRow.ldImm (x : Nibble) (nn : Byte) : TableRow.Statement (.ldImm x nn) := ⟨(fixed_XI _ _ _).trans (by rfl), by simp [Instr.row, opcodeMap]⟩
theorem TableRow.addImm (x : Nibble) (nn : Byte) : TableRow.Statement (.addImm x nn) := ⟨(fixed_XI _ _ _).trans (by rfl), by simp [Instr.row, opcodeMap]⟩
theorem TableRow.ldReg (x : Nibble) (y : Nibble) : TableRow.Statement (.ldReg x y) := ⟨(fixed_XY _ _ _ _).trans (by rfl), by simp [Instr.row, opcodeMap]⟩
theorem TableRow.orReg (x : Nibble) (y : Nibble) : TableRow.Statement (.orReg x y) := ⟨(fixed_XY _ _ _ _).trans (by rfl), by simp [Instr.row, opcodeMap]⟩
theorem TableRow.andReg (x : Nibble) (y : Nibble) : TableRow.Statement (.andReg x y) := ⟨(fixed_XY _ _ _ _).trans (by rfl), by simp [Instr.row, opcodeMap]⟩
theorem TableRow.xorReg (x : Nibble) (y : Nibble) : TableRow.Statement (.xorReg x y) := ⟨(fixed_XY _ _ _ _).trans (by rfl), by simp [Instr.row, opcodeMap]⟩
theorem TableRow.addReg (x : Nibble) (y : Nibble) : TableRow.Statement (.addReg x y) := ⟨(fixed_XY _ _ _ _).trans (by rfl), by simp [Instr.row, opcodeMap]⟩
theorem TableRow.subReg (x : Nibble) (y : Nibble) : TableRow.Statement (.subReg x y) := ⟨(fixed_XY _ _ _ _).trans (by rfl), by simp [Instr.row, opcodeMap]⟩
theorem TableRow.shr (x : Nibble) (y : Nibble) : TableRow.Statement (.shr x y) := ⟨(fixed_XY _ _ _ _).trans (by rfl), by simp [Instr.row, opcodeMap]⟩
theorem TableRow.subn (x : Nibble) (y : Nibble) : TableRow.Statement (.subn x y) := ⟨(fixed_XY _ _ _ _).trans (by rfl), by simp [Instr.row, opcodeMap]⟩
theorem TableRow.shl (x : Nibble) (y : Nibble) : TableRow.Statement (.shl x y) := ⟨(fixed_XY _ _ _ _).trans (by rfl), by simp [Instr.row, opcodeMap]⟩
theorem TableRow.sneReg (x : Nibble) (y : Nibble) : TableRow.Statement (.sneReg x y) := ⟨(fixed_XY _ _ _ _).trans (by rfl), by simp [Instr.row, opcodeMap]⟩
theorem TableRow.ldI (nnn : Addr12) : TableRow.Statement (.ldI nnn) := ⟨(fixed_A _ _).trans (by rfl), by simp [Instr.row, opcodeMap]⟩
theorem TableRow.jpV0 (nnn : Addr12) : TableRow.Statement (.jpV0 nnn) := ⟨(fixed_A _ _).trans (by rfl), by simp [Instr.row, opcodeMap]⟩
theorem TableRow.rnd (x : Nibble) (nn : Byte) : TableRow.Statement (.rnd x nn) := ⟨(fixed_XI _ _ _).trans (by rfl), by simp [Instr.row, opcodeMap]⟩
theorem TableRow.drw16 (x : Nibble) (y : Nibble) : TableRow.Statement (.drw16 x y) := ⟨(fixed_XY _ _ _ _).trans (by rfl), by simp [Instr.row, opcodeMap]⟩
theorem TableRow.drw (x : Nibble) (y : Nibble) (n : Nibble) : TableRow.Statement (.drw x y n) := ⟨(fixed_XYN _ _ _ _).trans (by rfl), by simp [Instr.row, opcodeMap]⟩
theorem TableRow.skp (x : Nibble) : TableRow.Statement (.skp x) := ⟨(fixed_X _ _ _).trans (by rfl), by simp [Instr.row, opcodeMap]⟩
theorem TableRow.sknp (x : Nibble) : TableRow.Statement (.sknp x) := ⟨(fixed_X _ _ _).trans (by rfl), by simp [Instr.row, opcodeMap]⟩
theorem TableRow.ldVxDt (x : Nibble) : TableRow.Statement (.ldVxDt x) := ⟨(fixed_X _ _ _).trans (by rfl), by simp [Instr.row, opcodeMap]⟩
theorem TableRow.ldVxK (x : Nibble) : TableRow.Statement (.ldVxK x) := ⟨(fixed_X _ _ _).trans (by rfl), by simp [Instr.row, opcodeMap]⟩
theorem TableRow.ldDtVx (x : Nibble) : TableRow.Statement (.ldDtVx x) := ⟨(fixed_X _ _ _).trans (by rfl), by simp [Instr.row, opcodeMap]⟩
theorem TableRow.ldStVx (x : Nibble) : TableRow.Statement (.ldStVx x) := ⟨(fixed_X _ _ _).trans (by rfl), by simp [Instr.row, opcodeMap]⟩
theorem TableRow.addI (x : Nibble) : TableRow.Statement (.addI x) := ⟨(fixed_X _ _ _).trans (by rfl), by simp [Instr.row, opcodeMap]⟩
theorem TableRow.ldF (x : Nibble) : TableRow.Statement (.ldF x) := ⟨(fixed_X _ _ _).trans (by rfl), by simp [Instr.row, opcodeMap]⟩
theorem TableRow.ldHf (x : Nibble) : TableRow.Statement (.ldHf x) := ⟨(fixed_X _ _ _).trans (by rfl), by simp [Instr.row, opcodeMap]⟩
theorem TableRow.ldB (x : Nibble) : TableRow.Statement (.ldB x) := ⟨(fixed_X _ _ _).trans (by rfl), by simp [Instr.row, opcodeMap]⟩
theorem TableRow.storeRegs (x : Nibble) : TableRow.Statement (.storeRegs x) := ⟨(fixed_X _ _ _).trans (by rfl), by simp [Instr.row, opcodeMap]⟩
theorem TableRow.loadRegs (x : Nibble) : TableRow.Statement (.loadRegs x) := ⟨(fixed_X _ _ _).trans (by rfl), by simp [Instr.row, opcodeMap]⟩
theorem TableRow.storeRpl (x : Nibble) : TableRow.Statement (.storeRpl x) := ⟨(fixed_X _ _ _).trans (by rfl), by simp [Instr.row, opcodeMap]⟩
theorem TableRow.loadRpl (x : Nibble) : TableRow.Statement (.loadRpl x) := ⟨(fixed_X _ _ _).trans (by rfl), by simp [Instr.row, opcodeMap]⟩

end Sys2Proof.Laws
end

