-- ==== Sys2Proof/Tests/Slice0.lean ====
section
/-! SUPPORT. The model's own tests. Expected results are those of spec/95_test_vectors.md (the vector's name
stands with each test) or follow by hand from the rule named. The `witness_` theorems show, for every statement
of Certificates/Slice0/Obligations.lean that has hypotheses, a state and operands that meet them. -/

namespace Sys2Proof.Tests

open Sys2Proof.Machine

/-! ### Helpers -/

/-- The construction state of a machine with the default policies. -/
def machine (v : Variant) : State := State.initial { defaultConfig with variant := v } 0

/-- No key down. -/
def noKeys : Keys := Vector.replicate 16 false

/-- One key down. -/
def oneKey (k : Nat) : Keys := Vector.ofFn fun i => i.val == k

/-- The driver asks for one instruction step, no key down. -/
def asked (s : State) : State := { s with requests := [.instruction noKeys 0#8] }

/-- One step on the instruction word `w`, from the construction state changed by `f`, with the inputs given. -/
def stepWith (keys : Keys) (rnd : Byte) (v : Variant) (w : Word) (f : State → State) : Result :=
  step ({ f (machine v) with requests := [.instruction keys rnd] }.placeWord w)

/-- One step with no key down. -/
def one (v : Variant) (w : Word) (f : State → State) : Result := stepWith noKeys 0#8 v w f

/-- The step has a next state, and it is as `p` says. -/
def ran (r : Result) (p : State → Bool) : Bool :=
  match r with
  | .next t => p t
  | _ => false

/-- What ran has a next state. -/
theorem next_of_ran (r : Result) (p : State → Bool) (h : ran r p = true) : ∃ t, r = .next t := by
  unfold ran at h
  split at h
  · exact ⟨_, rfl⟩
  · cases h

/-- The fault a step ends in. -/
def faultOf (r : Result) : Option Fault :=
  match r with
  | .fault f => some f
  | _ => none

/-- The same on both machines. -/
def both (w : Word) (f : State → State) (p : State → Bool) : Bool :=
  ran (one .base w f) p && ran (one .extended w f) p

/-- Registers set one after another. -/
def regs (l : List (Nibble × Byte)) (s : State) : State := l.foldl (fun t p => t.setReg p.1 p.2) s

/-- Bytes in memory from an address on. -/
def bytes (a : Nat) (l : List Byte) (s : State) : State := { s with mem := Mem.load s.mem a l }

/-- The pixels set, in row-major order. -/
def lit (l : List (Nat × Nat)) (s : State) : State :=
  { s with fb := { s.fb with lit := l.map fun p => ⟨p.1, p.2⟩ } }

/-- The set pixels of a state. -/
def pixels (s : State) : List (Nat × Nat) := s.fb.lit.map fun p => (p.cx, p.cy)

/-- High resolution. -/
def high (s : State) : State := { s with hires := true, fb := { w := 128, h := 64, lit := s.fb.lit } }

/-- `I` set. -/
def index (i : Word) (s : State) : State := { s with idx := i }

/-- Another address policy. -/
def wrap12 (s : State) : State := { s with cfg := { s.cfg with addrPolicy := .wrap12 } }

/-- Another stack policy. -/
def legacy (s : State) : State := { s with cfg := { s.cfg with stackPolicy := .legacySilent } }

/-- Another digit policy. -/
def mask4 (s : State) : State := { s with cfg := { s.cfg with digitPolicy := .mask4 } }

/-- Another edge policy. -/
def edge (e : Draw16Edge) (s : State) : State := { s with cfg := { s.cfg with draw16Edge := e } }

/-! ### Well-formed terms (R95, R96): each check refuses a term -/

theorem test_wf_sys : wellFormed .base (.sys 0x0E0#12) = false ∧ wellFormed .base (.sys 0x0EE#12) = false ∧
    wellFormed .base (.sys 0x0C5#12) = true ∧ wellFormed .extended (.sys 0x0C5#12) = false ∧
    wellFormed .extended (.sys 0x0FB#12) = false ∧ wellFormed .extended (.sys 0x0FC#12) = false ∧
    wellFormed .extended (.sys 0x0FD#12) = false ∧ wellFormed .extended (.sys 0x0FE#12) = false ∧
    wellFormed .extended (.sys 0x0FF#12) = false ∧ wellFormed .extended (.sys 0x0FA#12) = true := by decide

theorem test_wf_drw : wellFormed .extended (.drw 1#4 2#4 0#4) = false ∧
    wellFormed .base (.drw 1#4 2#4 0#4) = true ∧ wellFormed .extended (.drw 1#4 2#4 1#4) = true := by decide

theorem test_wf_variant :
    ([.scd 5#4, .scr, .scl, .exitReq, .low, .high, .drw16 1#4 2#4, .ldHf 1#4, .storeRpl 1#4, .loadRpl 1#4] :
      List Instr).all (fun i => wellFormed .extended i && !wellFormed .base i) = true := by decide

/-! ### Decoding: for every constructor a word written out from the encoding of its row (R96) -/

theorem test_decode_control :
    decode .extended 0b0000_0001_0010_0011#16 = .ok (.sys 0x123#12) ∧
    decode .base 0b0000_0000_1110_1110#16 = .ok .ret ∧
    decode .base 0b0001_0010_0000_0100#16 = .ok (.jp 0x204#12) ∧
    decode .base 0b0010_0011_0000_0000#16 = .ok (.call 0x300#12) ∧
    decode .base 0b0011_1010_0000_0111#16 = .ok (.seImm 0xA#4 0x07#8) ∧
    decode .base 0b0100_1010_0000_0111#16 = .ok (.sneImm 0xA#4 0x07#8) ∧
    decode .base 0b0101_0001_0010_0000#16 = .ok (.seReg 1#4 2#4) ∧
    decode .base 0b1001_0001_0010_0000#16 = .ok (.sneReg 1#4 2#4) ∧
    decode .base 0b1011_0010_0001_0000#16 = .ok (.jpV0 0x210#12) := by decide

theorem test_decode_alu :
    decode .base 0b0110_1010_0010_1100#16 = .ok (.ldImm 0xA#4 0x2C#8) ∧
    decode .base 0b0111_0001_0000_0101#16 = .ok (.addImm 1#4 0x05#8) ∧
    decode .base 0b1000_0001_0010_0000#16 = .ok (.ldReg 1#4 2#4) ∧
    decode .base 0b1000_0001_0010_0001#16 = .ok (.orReg 1#4 2#4) ∧
    decode .base 0b1000_0001_0010_0010#16 = .ok (.andReg 1#4 2#4) ∧
    decode .base 0b1000_0001_0010_0011#16 = .ok (.xorReg 1#4 2#4) ∧
    decode .base 0b1000_1010_1011_0100#16 = .ok (.addReg 0xA#4 0xB#4) ∧
    decode .base 0b1000_0001_0010_0101#16 = .ok (.subReg 1#4 2#4) ∧
    decode .base 0b1000_0001_0010_0110#16 = .ok (.shr 1#4 2#4) ∧
    decode .base 0b1000_0001_0010_0111#16 = .ok (.subn 1#4 2#4) ∧
    decode .base 0b1000_0001_0010_1110#16 = .ok (.shl 1#4 2#4) ∧
    decode .base 0b1100_0011_0000_1111#16 = .ok (.rnd 3#4 0x0F#8) := by decide

theorem test_decode_memory :
    decode .base 0b1010_0010_1111_0000#16 = .ok (.ldI 0x2F0#12) ∧
    decode .base 0b1111_0011_0001_1110#16 = .ok (.addI 3#4) ∧
    decode .base 0b1111_0010_0010_1001#16 = .ok (.ldF 2#4) ∧
    decode .base 0b1111_0101_0011_0011#16 = .ok (.ldB 5#4) ∧
    decode .base 0b1111_0011_0101_0101#16 = .ok (.storeRegs 3#4) ∧
    decode .base 0b1111_0001_0110_0101#16 = .ok (.loadRegs 1#4) := by decide

theorem test_decode_display :
    decode .base 0b0000_0000_1110_0000#16 = .ok .cls ∧
    decode .base 0b1101_0001_0010_0101#16 = .ok (.drw 1#4 2#4 5#4) ∧
    decode .base 0b1101_0001_0010_0000#16 = .ok (.drw 1#4 2#4 0#4) ∧
    decode .extended 0b1101_0001_0010_0000#16 = .ok (.drw16 1#4 2#4) ∧
    decode .extended 0b0000_0000_1100_0101#16 = .ok (.scd 5#4) ∧
    decode .extended 0b0000_0000_1111_1011#16 = .ok .scr ∧
    decode .extended 0b0000_0000_1111_1100#16 = .ok .scl ∧
    decode .extended 0b0000_0000_1111_1110#16 = .ok .low ∧
    decode .extended 0b0000_0000_1111_1111#16 = .ok .high := by decide

theorem test_decode_keypad_timers :
    decode .base 0b1110_0001_1001_1110#16 = .ok (.skp 1#4) ∧
    decode .base 0b1110_0001_1010_0001#16 = .ok (.sknp 1#4) ∧
    decode .base 0b1111_0100_0000_0111#16 = .ok (.ldVxDt 4#4) ∧
    decode .base 0b1111_0011_0000_1010#16 = .ok (.ldVxK 3#4) ∧
    decode .base 0b1111_0100_0001_0101#16 = .ok (.ldDtVx 4#4) ∧
    decode .base 0b1111_0100_0001_1000#16 = .ok (.ldStVx 4#4) := by decide

theorem test_decode_extended :
    decode .extended 0b0000_0000_1111_1101#16 = .ok .exitReq ∧
    decode .extended 0b1111_0011_0011_0000#16 = .ok (.ldHf 3#4) ∧
    decode .extended 0b1111_0010_0111_0101#16 = .ok (.storeRpl 2#4) ∧
    decode .extended 0b1111_0001_1000_0101#16 = .ok (.loadRpl 1#4) := by decide

/-- T-DEC-3, T-DEC-6 to T-DEC-8, T-DEC-10 to T-DEC-14. -/
theorem test_decode_other_machine :
    decode .base 0xFFFF#16 = .error (.unknownInstruction 0xFFFF#16) ∧
    decode .base 0x00FD#16 = .ok (.sys 0x0FD#12) ∧ decode .base 0x00C5#16 = .ok (.sys 0x0C5#12) ∧
    decode .extended 0x01E0#16 = .ok (.sys 0x1E0#12) ∧
    decode .extended 0x5121#16 = .error (.unknownInstruction 0x5121#16) ∧
    decode .extended 0x8128#16 = .error (.unknownInstruction 0x8128#16) ∧
    decode .extended 0xE19F#16 = .error (.unknownInstruction 0xE19F#16) ∧
    decode .base 0xF175#16 = .error (.unknownInstruction 0xF175#16) ∧
    decode .base 0xF130#16 = .error (.unknownInstruction 0xF130#16) := by decide

/-- T-DEC-1 (R91). -/
theorem test_fields : fields 0xD125#16 =
    { op := 0xD#4, x := 1#4, y := 2#4, n := 5#4, nn := 0x25#8, nnn := 0x125#12 } := by decide

/-- R65, R90: the byte at the lower address is the high one; one byte is no instruction. -/
theorem test_decode_bytes : decodeBytes .base [0x12#8, 0x04#8, 0xFF#8] = .ok (.jp 0x204#12, [0xFF#8]) ∧
    decodeBytes .base [0x12#8] = .error .truncated ∧ decodeTableWord 16 0x00C5 = some (.scd 5#4) := by decide

/-! ### The step -/

/-- R42, R93: the host's placement puts the word where the first step after reset fetches it. -/
theorem test_first_step : ran (step (State.reset.withFetchWord 16 0x6A2C)) (fun t =>
    t.reg 0xA#4 == 0x2C#8 && t.pc == 0x202#16) = true := by decide

/-- R97: word 5121 gives its notice and PC + 2, on both machines. -/
theorem test_unknown : both 0x5121#16 id (fun t => t.pc == 0x202#16 &&
    t.out.diag == some (.unknownInstruction 0x5121#16 0x200#16)) = true := by decide

/-- T-FET-1. -/
theorem test_fetch_last_word :
    both 0x6001#16 (fun s => { s with pc := 0xFFE#16 }) (fun t => t.reg 0#4 == 0x01#8 && t.pc == 0x1000#16) = true ∧
    faultOf (step (asked { machine .base with pc := 0x1000#16 })) = some (.addressRange 0x1000 0x1000#16) := by decide

/-- T-FET-2, and under wrap12. -/
theorem test_fetch_across_the_top :
    faultOf (step (asked { machine .base with pc := 0xFFF#16 })) = some (.addressRange 0x1000 0xFFF#16) ∧
    ran (step (asked (wrap12 { machine .base with pc := 0xFFF#16 }))) (fun t => t.pc == 0x1001#16) = true := by decide

/-- T-FET-3: an odd PC is legal. -/
theorem test_fetch_odd :
    ran (step (asked { bytes 0x200 [0x12#8, 0x60#8, 0x07#8, 0x00#8] (machine .base) with pc := 0x201#16 })) (fun t =>
      t.reg 0#4 == 0x07#8 && t.pc == 0x203#16) = true := by decide

/-- T-TCK-3 and T-TCK-6. -/
theorem test_tick :
    ran (step { machine .base with st := 2#8, requests := [.tick] }) (fun t =>
      t.st == 1#8 && t.tone && !t.out.toneStopped && t.pc == 0x200#16) = true ∧
    ran (step { machine .base with st := 1#8, dt := 2#8, halted := true, requests := [.tick] }) (fun t =>
      t.st == 0#8 && t.dt == 1#8 && !t.tone && t.out.toneStopped) = true := by decide

/-- R254: memory and RPL stay, the rest is as constructed. -/
theorem test_warm_reset :
    ran (step { high (bytes 0x300 [0xAA#8] (machine .extended)) with
      rpl := Vector.replicate 8 7#8, sp := 3, pc := 0x400#16, halted := true, requests := [.reset] }) (fun t =>
      t.mem.read 0x300 == 0xAA#8 && t.rpl == Vector.replicate 8 7#8 && t.sp == 0 && t.pc == 0x200#16 &&
        !t.halted && !t.hires && t.fb.w == 64) = true := by decide

/-- S11: the length check, and the first and last byte of a program. -/
theorem test_load :
    State.construct defaultConfig none = .error .loadUnreadable ∧
    (match State.construct defaultConfig (some [0xA2#8, 0x06#8]) with
      | .ok s => s.mem.read 0x200 == 0xA2#8 && s.mem.read 0x201 == 0x06#8 && s.mem.read 0x202 == 0#8
      | .error _ => false) = true := by decide

/-! ### Control flow -/

/-- SYS, and T-DEC-6 on the base machine. -/
theorem test_sys : both 0x0123#16 id (fun t => t.pc == 0x202#16 &&
    t.out.diag == some (.unimplementedProgramCall 0x123#12 0x200#16)) = true := by decide

/-- T-CF-2. -/
theorem test_jp : both 0x1201#16 id (fun t => t.pc == 0x201#16 && t.reg 0#4 == 0#8) = true := by decide

/-- T-CF-4. -/
theorem test_call : both 0x2400#16 (fun s => { s with sp := 15, pc := 0x300#16 }) (fun t =>
    t.stk[15] == 0x302#16 && t.sp == 16 && t.pc == 0x400#16) = true := by decide

/-- T-CF-5 and T-CF-6. -/
theorem test_call_full :
    faultOf (one .base 0x2400#16 (fun s => { s with sp := 16, pc := 0x300#16 })) =
      some (.stackOverflow 0x302#16 0x300#16) ∧
    both 0x2400#16 (fun s => legacy { s with sp := 16, pc := 0x300#16 }) (fun t =>
      t.pc == 0x400#16 && t.sp == 16 && t.stk == Vector.replicate 16 0#16) = true := by decide

/-- T-CF-7. -/
theorem test_ret : both 0x00EE#16 (fun s => { s with sp := 1, stk := s.stk.set 0 0x202#16, pc := 0x300#16 })
    (fun t => t.sp == 0 && t.pc == 0x202#16 && t.stk[0] == 0x202#16) = true := by decide

/-- T-CF-8 and T-CF-9. -/
theorem test_ret_empty : faultOf (one .extended 0x00EE#16 id) = some (.stackUnderflow 0x200#16) ∧
    both 0x00EE#16 legacy (fun t => t.pc == 0x0000#16 && t.sp == 0) = true := by decide

/-- T-CF-10, T-CF-11 and T-CF-23. -/
theorem test_seImm : both 0x3A07#16 (regs [(0xA#4, 0x07#8)]) (fun t => t.pc == 0x204#16) = true ∧
    both 0x3A07#16 (regs [(0xA#4, 0x08#8)]) (fun t => t.pc == 0x202#16) = true ∧
    both 0x3A07#16 (fun s => regs [(0xA#4, 0x07#8)] { s with pc := 0xFFC#16 }) (fun t => t.pc == 0x1000#16) = true := by
  decide

/-- T-CF-12 and T-CF-13. -/
theorem test_sneImm : both 0x4A07#16 (regs [(0xA#4, 0x07#8)]) (fun t => t.pc == 0x202#16) = true ∧
    both 0x4A07#16 (regs [(0xA#4, 0x08#8)]) (fun t => t.pc == 0x204#16) = true := by decide

/-- T-CF-14 and T-CF-15. -/
theorem test_seReg : both 0x5120#16 (regs [(1#4, 9#8), (2#4, 9#8)]) (fun t => t.pc == 0x204#16) = true ∧
    both 0x5120#16 (regs [(1#4, 9#8), (2#4, 8#8)]) (fun t => t.pc == 0x202#16) = true ∧
    both 0x5330#16 id (fun t => t.pc == 0x204#16) = true := by decide

/-- T-CF-16 and T-CF-17. -/
theorem test_sneReg : both 0x9120#16 (regs [(1#4, 9#8), (2#4, 8#8)]) (fun t => t.pc == 0x204#16) = true ∧
    both 0x9330#16 id (fun t => t.pc == 0x202#16) = true := by decide

/-- T-CF-18 and T-CF-19. -/
theorem test_jpV0 : ran (one .base 0xB210#16 (regs [(0#4, 0x04#8), (2#4, 0x30#8)])) (fun t => t.pc == 0x214#16) = true ∧
    ran (one .extended 0xB210#16 (regs [(0#4, 0x04#8), (2#4, 0x30#8)])) (fun t => t.pc == 0x240#16) = true := by decide

/-- T-CF-20 and T-CF-21. -/
theorem test_jpV0_above :
    ran (one .base 0xBFFF#16 (regs [(0#4, 0xFF#8), (15#4, 0x10#8)])) (fun t => t.pc == 0x10FE#16) = true ∧
    ran (one .extended 0xBFFF#16 (regs [(0#4, 0xFF#8), (15#4, 0x10#8)])) (fun t => t.pc == 0x100F#16) = true := by
  decide

/-! ### Registers and ALU -/

/-- T-ALU-0. -/
theorem test_ldImm : both 0x6A2C#16 id (fun t => t.reg 0xA#4 == 0x2C#8 && t.pc == 0x202#16) = true := by decide

/-- T-ALU-0b and T-ALU-29. -/
theorem test_addImm : both 0x7105#16 (regs [(1#4, 0xFE#8)]) (fun t => t.reg 1#4 == 0x03#8 && t.reg 15#4 == 0#8) = true ∧
    both 0x7FFF#16 (regs [(15#4, 0x01#8)]) (fun t => t.reg 15#4 == 0#8) = true := by decide

/-- T-ALU-0c. -/
theorem test_ldReg : both 0x8120#16 (regs [(2#4, 0x77#8)]) (fun t => t.reg 1#4 == 0x77#8) = true := by decide

/-- T-ALU-18 and T-ALU-19. -/
theorem test_orReg :
    ran (one .base 0x8121#16 (regs [(1#4, 0x0F#8), (2#4, 0xF0#8), (15#4, 1#8)])) (fun t =>
      t.reg 1#4 == 0xFF#8 && t.reg 15#4 == 0#8) = true ∧
    ran (one .extended 0x8121#16 (regs [(1#4, 0x0F#8), (2#4, 0xF0#8), (15#4, 1#8)])) (fun t =>
      t.reg 1#4 == 0xFF#8 && t.reg 15#4 == 1#8) = true := by decide

/-- T-ALU-25. -/
theorem test_orReg_flag : both 0x8F11#16 (regs [(15#4, 1#8), (1#4, 2#8)]) (fun t => t.reg 15#4 == 3#8) = true := by decide

/-- T-ALU-19b. -/
theorem test_andReg : both 0x8122#16 (regs [(1#4, 0x3C#8), (2#4, 0x0F#8)]) (fun t => t.reg 1#4 == 0x0C#8) = true := by decide

/-- T-ALU-19c. -/
theorem test_xorReg : both 0x8113#16 (regs [(1#4, 0x5A#8)]) (fun t => t.reg 1#4 == 0#8) = true := by decide

/-- T-ALU-1, T-ALU-3 and T-ALU-5. -/
theorem test_addReg :
    both 0x8124#16 (regs [(1#4, 0xC8#8), (2#4, 0x64#8)]) (fun t => t.reg 1#4 == 0x2C#8 && t.reg 15#4 == 1#8) = true ∧
    both 0x8124#16 (regs [(1#4, 0x7F#8), (2#4, 0x80#8), (15#4, 1#8)]) (fun t =>
      t.reg 1#4 == 0xFF#8 && t.reg 15#4 == 0#8) = true ∧
    both 0x8114#16 (regs [(1#4, 0x90#8)]) (fun t => t.reg 1#4 == 0x20#8 && t.reg 15#4 == 1#8) = true := by decide

/-- T-ALU-20 and T-ALU-24. -/
theorem test_addReg_flag : both 0x8F14#16 (regs [(15#4, 0xFF#8), (1#4, 3#8)]) (fun t => t.reg 15#4 == 2#8) = true ∧
    both 0x81F4#16 (regs [(1#4, 0xFF#8), (15#4, 1#8)]) (fun t => t.reg 1#4 == 0#8 && t.reg 15#4 == 1#8) = true := by decide

/-- T-ALU-6 and T-ALU-7. -/
theorem test_subReg :
    both 0x8125#16 (regs [(1#4, 3#8), (2#4, 5#8)]) (fun t => t.reg 1#4 == 0xFE#8 && t.reg 15#4 == 0#8) = true ∧
    both 0x8125#16 (regs [(1#4, 5#8), (2#4, 5#8)]) (fun t => t.reg 1#4 == 0#8 && t.reg 15#4 == 1#8) = true := by decide

/-- T-ALU-21. -/
theorem test_subReg_flag : both 0x8F15#16 (regs [(15#4, 5#8), (1#4, 3#8)]) (fun t => t.reg 15#4 == 2#8) = true := by decide

/-- T-ALU-10 and T-ALU-11. -/
theorem test_subn :
    both 0x8127#16 (regs [(1#4, 3#8), (2#4, 5#8)]) (fun t => t.reg 1#4 == 2#8 && t.reg 15#4 == 1#8) = true ∧
    both 0x8127#16 (regs [(1#4, 5#8), (2#4, 3#8)]) (fun t => t.reg 1#4 == 0xFE#8 && t.reg 15#4 == 0#8) = true := by decide

/-- T-ALU-12 and T-ALU-13. -/
theorem test_shr :
    ran (one .base 0x8126#16 (regs [(1#4, 5#8), (2#4, 0xF0#8)])) (fun t =>
      t.reg 1#4 == 0x78#8 && t.reg 15#4 == 0#8 && t.reg 2#4 == 0xF0#8) = true ∧
    ran (one .extended 0x8126#16 (regs [(1#4, 5#8), (2#4, 0xF0#8)])) (fun t =>
      t.reg 1#4 == 2#8 && t.reg 15#4 == 1#8) = true := by decide

/-- T-ALU-22 and T-ALU-23. -/
theorem test_shr_flag :
    ran (one .base 0x8F16#16 (regs [(15#4, 5#8), (1#4, 9#8)])) (fun t => t.reg 15#4 == 4#8) = true ∧
    ran (one .extended 0x8F16#16 (regs [(15#4, 5#8), (1#4, 9#8)])) (fun t => t.reg 15#4 == 2#8) = true := by decide

/-- T-ALU-14 and T-ALU-15. -/
theorem test_shl :
    ran (one .base 0x812E#16 (regs [(1#4, 0x81#8), (2#4, 0x40#8)])) (fun t =>
      t.reg 1#4 == 0x80#8 && t.reg 15#4 == 0#8) = true ∧
    ran (one .extended 0x812E#16 (regs [(1#4, 0x81#8), (2#4, 0x40#8)])) (fun t =>
      t.reg 1#4 == 2#8 && t.reg 15#4 == 1#8) = true := by decide

/-- T-ALU-16 and T-ALU-17. -/
theorem test_shl_flag :
    ran (one .base 0x81FE#16 (regs [(1#4, 0x40#8), (15#4, 0x80#8)])) (fun t =>
      t.reg 1#4 == 0#8 && t.reg 15#4 == 1#8) = true ∧
    ran (one .extended 0x81FE#16 (regs [(1#4, 0x40#8), (15#4, 0x80#8)])) (fun t =>
      t.reg 1#4 == 0x80#8 && t.reg 15#4 == 0#8) = true := by decide

/-- T-ALU-26. -/
theorem test_rnd : ran (stepWith noKeys 0xA7#8 .base 0xC30F#16 id) (fun t => t.reg 3#4 == 7#8) = true := by decide

/-! ### Index register and memory -/

/-- T-MEM-1. -/
theorem test_ldI : both 0xA2F0#16 id (fun t => t.idx == 0x2F0#16) = true := by decide

/-- T-MEM-3 and T-MEM-4. -/
theorem test_addI :
    both 0xF01E#16 (fun s => regs [(0#4, 1#8), (15#4, 7#8)] (index 0xFFF#16 s)) (fun t =>
      t.idx == 0x1000#16 && t.reg 15#4 == 7#8) = true ∧
    both 0xF01E#16 (fun s => regs [(0#4, 2#8)] (index 0xFFFF#16 s)) (fun t => t.idx == 1#16) = true := by decide

/-- T-MEM-5 and T-MEM-6. -/
theorem test_ldF : both 0xF229#16 (regs [(2#4, 0x0A#8)]) (fun t => t.idx == 0x82#16) = true ∧
    both 0xF029#16 (regs [(0#4, 0x0F#8)]) (fun t => t.idx == 0x9B#16) = true := by decide

/-- T-MEM-7. -/
theorem test_ldF_above : faultOf (one .base 0xF029#16 (regs [(0#4, 0x10#8)])) = some (.operandRange 0x10#8 0x200#16) ∧
    both 0xF029#16 (fun s => mask4 (regs [(0#4, 0x10#8)] s)) (fun t => t.idx == 0x50#16) = true := by decide

/-- T-MEM-8 and T-MEM-11. -/
theorem test_ldB :
    both 0xF533#16 (fun s => regs [(5#4, 0x7B#8)] (index 0x300#16 s)) (fun t =>
      t.mem.read 0x300 == 1#8 && t.mem.read 0x301 == 2#8 && t.mem.read 0x302 == 3#8 && t.idx == 0x300#16) = true ∧
    both 0xF033#16 (fun s => regs [(0#4, 0xFF#8)] (index 0xFFD#16 s)) (fun t =>
      t.mem.read 0xFFD == 2#8 && t.mem.read 0xFFE == 5#8 && t.mem.read 0xFFF == 5#8) = true := by decide

/-- T-MEM-12. -/
theorem test_ldB_above : faultOf (one .base 0xF033#16 (fun s => regs [(0#4, 0xFF#8)] (index 0xFFE#16 s))) =
    some (.addressRange 0x1000 0x200#16) := by decide

/-- T-MEM-13. -/
theorem test_storeRegs :
    ran (one .base 0xF355#16 (fun s => regs [(0#4, 0x11#8), (1#4, 0x22#8), (2#4, 0x33#8), (3#4, 0x44#8)] (index 0x400#16 s)))
      (fun t => t.mem.read 0x400 == 0x11#8 && t.mem.read 0x403 == 0x44#8 && t.mem.read 0x404 == 0#8 &&
        t.idx == 0x404#16) = true ∧
    ran (one .extended 0xF355#16 (fun s => regs [(0#4, 0x11#8), (3#4, 0x44#8)] (index 0x400#16 s)))
      (fun t => t.mem.read 0x403 == 0x44#8 && t.idx == 0x400#16) = true := by decide

/-- T-MEM-15 and T-MEM-16. -/
theorem test_storeRegs_top :
    ran (one .base 0xFF55#16 (fun s => regs [(15#4, 0x10#8)] (index 0xFF0#16 s))) (fun t =>
      t.mem.read 0xFFF == 0x10#8 && t.idx == 0x1000#16) = true ∧
    faultOf (one .base 0xFF55#16 (index 0xFF1#16)) = some (.addressRange 0x1000 0x200#16) := by decide

/-- T-MEM-17. -/
theorem test_loadRegs :
    ran (one .base 0xF165#16 (fun s => bytes 0x400 [0xAA#8, 0xBB#8, 0xCC#8] (index 0x400#16 s))) (fun t =>
      t.reg 0#4 == 0xAA#8 && t.reg 1#4 == 0xBB#8 && t.reg 2#4 == 0#8 && t.idx == 0x402#16) = true ∧
    ran (one .extended 0xF165#16 (fun s => bytes 0x400 [0xAA#8, 0xBB#8] (index 0x400#16 s))) (fun t =>
      t.reg 1#4 == 0xBB#8 && t.idx == 0x400#16) = true := by decide

/-- T-MEM-18: the font bytes. -/
theorem test_loadRegs_font : ran (one .base 0xFF65#16 (index 0x50#16)) (fun t =>
    t.v.toList == [0xF0#8, 0x90#8, 0x90#8, 0x90#8, 0xF0#8, 0x20#8, 0x60#8, 0x20#8, 0x20#8, 0x70#8,
      0xF0#8, 0x10#8, 0xF0#8, 0x80#8, 0xF0#8, 0xF0#8] && t.idx == 0x60#16) = true := by decide

/-! ### Display -/

/-- T-DSP-1. -/
theorem test_cls : both 0x00E0#16 (fun s => regs [(15#4, 7#8)] (lit [(1, 1)] s)) (fun t =>
    pixels t == [] && t.reg 15#4 == 7#8) = true := by decide

/-- T-DSP-4 and T-DSP-5. -/
theorem test_drw :
    both 0xD011#16 (fun s => bytes 0x300 [0x40#8] (index 0x300#16 (lit [(0, 0)] s))) (fun t =>
      pixels t == [(0, 0), (1, 0)] && t.reg 15#4 == 0#8) = true ∧
    both 0xD012#16 (fun s => regs [(0#4, 62#8), (1#4, 31#8)] (bytes 0x300 [0xFF#8, 0xFF#8] (index 0x300#16 s)))
      (fun t => pixels t == [(62, 31), (63, 31)] && t.reg 15#4 == 0#8) = true := by decide

/-- T-DSP-3, T-DSP-8 and T-DSP-11. -/
theorem test_drw_forms :
    both 0xD011#16 (fun s => bytes 0x300 [0x80#8] (index 0x300#16 (lit [(0, 0)] s))) (fun t =>
      pixels t == [] && t.reg 15#4 == 1#8) = true ∧
    ran (one .extended 0xD011#16 (fun s =>
      regs [(0#4, 200#8), (1#4, 100#8)] (bytes 0x300 [0x80#8] (index 0x300#16 (high s))))) (fun t =>
        pixels t == [(72, 36)]) = true ∧
    ran (one .base 0xD010#16 (fun s => regs [(15#4, 9#8)] (index 0x300#16 (lit [(2, 2)] s)))) (fun t =>
      pixels t == [(2, 2)] && t.reg 15#4 == 0#8) = true := by decide

/-- T-EXT-1. -/
theorem test_scd : ran (one .extended 0x00C2#16 (lit [(3, 0), (3, 29), (3, 30)])) (fun t =>
    pixels t == [(3, 2), (3, 31)]) = true := by decide

/-- T-EXT-4 and T-EXT-5. -/
theorem test_scr : ran (one .extended 0x00FB#16 (lit [(0, 5), (59, 5), (60, 5), (63, 5)])) (fun t =>
      pixels t == [(4, 5), (63, 5)]) = true ∧
    ran (one .extended 0x00FB#16 (fun s => high (lit [(123, 0), (124, 0)] s))) (fun t =>
      pixels t == [(127, 0)]) = true := by decide

/-- T-EXT-6. -/
theorem test_scl : ran (one .extended 0x00FC#16 (lit [(3, 5), (4, 5), (63, 5)])) (fun t =>
    pixels t == [(0, 5), (59, 5)]) = true := by decide

/-- T-EXT-10. -/
theorem test_low : ran (one .extended 0x00FE#16 (fun s => high (lit [(1, 1)] s))) (fun t =>
    t.fb == { w := 64, h := 32, lit := [] } && !t.hires) = true := by decide

/-- T-EXT-8 and T-EXT-9. -/
theorem test_high : ran (one .extended 0x00FF#16 (lit [(1, 1)])) (fun t =>
      t.fb == { w := 128, h := 64, lit := [] } && t.hires) = true ∧
    ran (one .extended 0x00FF#16 (fun s => high (lit [(1, 1)] s))) (fun t =>
      t.fb == { w := 128, h := 64, lit := [] } && t.hires) = true := by decide

/-- T-EXT-13 and T-EXT-18. -/
theorem test_drw16 :
    ran (one .extended 0xD010#16 (fun s =>
      regs [(0#4, 48#8), (1#4, 16#8)] (bytes 0x300 [0x80#8, 0x01#8] (index 0x300#16 s)))) (fun t =>
        pixels t == [(48, 16), (63, 16)] && t.reg 15#4 == 0#8) = true ∧
    faultOf (one .extended 0xD010#16 (index 0xFE1#16)) = some (.addressRange 0x1000 0x200#16) := by decide

/-- T-EXT-14. -/
theorem test_drw16_edge :
    faultOf (one .extended 0xD010#16 (fun s => regs [(0#4, 49#8)] (index 0x300#16 s))) =
      some (.framebufferRange 49 0 0x200#16) ∧
    ran (one .extended 0xD010#16 (fun s =>
      edge .drop (regs [(0#4, 49#8)] (bytes 0x300 [0x80#8, 0x01#8] (index 0x300#16 s))))) (fun t =>
        pixels t == [(49, 0)]) = true ∧
    ran (one .extended 0xD010#16 (fun s =>
      edge .wrap (regs [(0#4, 49#8)] (bytes 0x300 [0x80#8, 0x01#8] (index 0x300#16 s))))) (fun t =>
        pixels t == [(0, 0), (49, 0)]) = true := by decide

/-! ### Keypad and timers -/

/-- T-KEY-1 and T-KEY-2. -/
theorem test_skp : ran (stepWith (oneKey 5) 0#8 .base 0xE19E#16 (regs [(1#4, 5#8)])) (fun t => t.pc == 0x204#16) = true ∧
    ran (stepWith noKeys 0#8 .base 0xE19E#16 (regs [(1#4, 5#8)])) (fun t => t.pc == 0x202#16) = true := by decide

/-- T-KEY-3 and T-KEY-4. -/
theorem test_sknp : ran (stepWith noKeys 0#8 .base 0xE1A1#16 (regs [(1#4, 5#8)])) (fun t => t.pc == 0x204#16) = true ∧
    ran (stepWith (oneKey 5) 0#8 .base 0xE1A1#16 (regs [(1#4, 5#8)])) (fun t => t.pc == 0x202#16) = true := by decide

/-- The table of the key wait, its steps 1 and 2. -/
theorem test_ldVxK_latch :
    ran (stepWith noKeys 0#8 .base 0xF30A#16 id) (fun t => t.kwait == none && t.pc == 0x200#16) = true ∧
    ran (stepWith (Vector.ofFn fun i => i.val == 7 || i.val == 9) 0#8 .base 0xF30A#16 id) (fun t =>
      t.kwait == some 7 && t.pc == 0x200#16) = true := by decide

/-- The table of the key wait, its steps 3 and 4. -/
theorem test_ldVxK_release :
    ran (stepWith (oneKey 7) 0#8 .base 0xF30A#16 (fun s => { s with kwait := some 7 })) (fun t =>
      t.kwait == some 7 && t.pc == 0x200#16 && t.reg 3#4 == 0#8) = true ∧
    ran (stepWith (oneKey 9) 0#8 .base 0xF30A#16 (fun s => { s with kwait := some 7 })) (fun t =>
      t.kwait == none && t.pc == 0x202#16 && t.reg 3#4 == 7#8) = true := by decide

/-- T-TMR-1. -/
theorem test_ldVxDt : both 0xF407#16 (fun s => { s with dt := 0x2A#8 }) (fun t => t.reg 4#4 == 0x2A#8) = true := by decide

/-- T-TMR-2. -/
theorem test_ldDtVx : both 0xF415#16 (regs [(4#4, 0x3C#8)]) (fun t => t.dt == 0x3C#8) = true := by decide

/-- T-TMR-3 and T-TCK-5. -/
theorem test_ldStVx : both 0xF418#16 (regs [(4#4, 2#8)]) (fun t => t.st == 2#8 && t.tone) = true ∧
    both 0xF018#16 (fun s => { s with st := 5#8 }) (fun t => t.st == 0#8 && !t.tone && !t.out.toneStopped) = true := by
  decide

/-! ### The extended machine -/

/-- T-EXT-7. -/
theorem test_exit : ran (one .extended 0x00FD#16 (fun s => { s with pc := 0x2A0#16 })) (fun t =>
    t.halted && t.out.exitReq && t.pc == 0x2A2#16) = true := by decide

/-- T-EXT-19 and T-EXT-20. -/
theorem test_ldHf : ran (one .extended 0xF330#16 (regs [(3#4, 2#8)])) (fun t => t.idx == 0x64#16) = true ∧
    faultOf (one .extended 0xF030#16 (regs [(0#4, 0x10#8)])) = some (.operandRange 0x10#8 0x200#16) := by decide

/-- T-EXT-21 and T-EXT-22. -/
theorem test_storeRpl :
    ran (one .extended 0xF275#16 (regs [(0#4, 1#8), (1#4, 2#8), (2#4, 3#8), (3#4, 4#8)])) (fun t =>
      t.rpl.toList == [1#8, 2#8, 3#8, 0#8, 0#8, 0#8, 0#8, 0#8]) = true ∧
    ran (one .extended 0xFF75#16 (regs [(7#4, 0x17#8), (8#4, 0x18#8)])) (fun t =>
      t.rpl.toList == [0#8, 0#8, 0#8, 0#8, 0#8, 0#8, 0#8, 0x17#8]) = true := by decide

/-- T-EXT-23. -/
theorem test_loadRpl : ran (one .extended 0xFF85#16 (fun s =>
    regs [(8#4, 0x44#8), (15#4, 0x55#8)] { s with rpl := Vector.ofFn fun i => BitVec.ofNat 8 (0xA0 + i.val) })) (fun t =>
      t.v.toList == [0xA0#8, 0xA1#8, 0xA2#8, 0xA3#8, 0xA4#8, 0xA5#8, 0xA6#8, 0xA7#8, 0x44#8,
        0#8, 0#8, 0#8, 0#8, 0#8, 0#8, 0x55#8]) = true := by decide

/-- The end of 2.7: the extended words on the base machine. -/
theorem test_extended_words_on_base :
    ran (one .base 0x00FD#16 id) (fun t => !t.halted && t.pc == 0x202#16 &&
      t.out.diag == some (.unimplementedProgramCall 0x0FD#12 0x200#16)) = true ∧
    ran (one .base 0xF330#16 id) (fun t => t.idx == 0#16 &&
      t.out.diag == some (.unknownInstruction 0xF330#16 0x200#16)) = true := by decide

/-- 2.8 of 95_test_vectors.md. -/
theorem test_disassemble :
    disassemble 0x8AB4#16 = "ADD VA, VB" ∧ disassemble 0xD125#16 = "DRW V1, V2, 5" ∧
    disassemble 0x00FD#16 = "EXIT" ∧ disassemble 0x0123#16 = "SYS 0x123" ∧
    disassemble 0x6A2C#16 = "LD VA, 0x2C" ∧ disassemble 0xA2F0#16 = "LD I, 0x2F0" ∧
    disassemble 0xF30A#16 = "LD V3, K" ∧ disassemble 0xB210#16 = "JP V0, 0x210" ∧
    disassemble 0x5121#16 = "" ∧ disassemble 0xFFFF#16 = "" := by decide

/-! ### Witnesses: the hypotheses of each statement can be met, clause by clause -/

/-- The two machines of the default policies, with a word at PC and one instruction request. -/
def ready (v : Variant) (w : Word) : State :=
  (asked (machine v)).placeWord w

theorem witness_DecodeInvertsEncode :
    wellFormed .extended (.drw 1#4 2#4 15#4) = true ∧ wellFormed .base (.drw 1#4 2#4 0#4) = true ∧
    wellFormed .extended (.sys 0x100#12) = true := by decide

theorem witness_EncodeInvertsDecode : decode .extended 0x00C5#16 = .ok (.scd 5#4) := by decide

theorem witness_SelectionTakesMostFixedBits :
    (decode .extended 0xD120#16 = .ok (.drw16 1#4 2#4) ∧
      (Instr.drw 1#4 2#4 0#4).row ∈ opcodeMap ∧ (Instr.drw 1#4 2#4 0#4).row.admits .extended = true ∧
      (Instr.drw 1#4 2#4 0#4).row.matchesWord 0xD120#16 = true ∧
      (Instr.drw 1#4 2#4 0#4).row ≠ (Instr.drw16 1#4 2#4).row) ∧
    decode .base 0x5121#16 = .error (.unknownInstruction 0x5121#16) := by decide

theorem witness_UnknownWordsOnlyGiveANotice :
    (ready .base 0xF175#16).nextRequest = .instruction noKeys 0#8 ∧ (ready .base 0xF175#16).halted = false ∧
    (ready .base 0xF175#16).fetch = .ok 0xF175#16 ∧
    decode (ready .base 0xF175#16).cfg.variant 0xF175#16 = .error (.unknownInstruction 0xF175#16) := by decide

theorem witness_DisassemblerTextIsEmptyOnUnknownWords :
    sysTaken .extended 0x123#12 = false ∧ sysTaken .extended 0x0D0#12 = false := by decide

theorem witness_StepRunsDecodedInstruction :
    (ready .extended 0x00FF#16).halted = false ∧ (ready .extended 0x00FF#16).fetch = .ok 0x00FF#16 ∧
    decode (ready .extended 0x00FF#16).cfg.variant 0x00FF#16 = .ok .high ∧
    (ready .extended 0x00FF#16).nextRequest = .instruction noKeys 0#8 := by decide

theorem witness_HaltedMachineRunsNothing :
    { ready .extended 0x00FF#16 with halted := true }.halted = true ∧
    { ready .extended 0x00FF#16 with halted := true }.nextRequest = .instruction noKeys 0#8 := by decide

/-- PC set. -/
def atPc (a : Word) (s : State) : State := { s with pc := a }

theorem witness_FetchReadsTwoBytesHighFirst :
    (atPc 0xFFE#16 (machine .base)).pc.toNat + 1 < memSize ∧
    (wrap12 (atPc 0xFFFF#16 (machine .base))).cfg.addrPolicy = .wrap12 ∧
    ((atPc 0xFFF#16 (ready .base 0#16)).nextRequest = .instruction noKeys 0#8 ∧
      (atPc 0xFFF#16 (ready .base 0#16)).halted = false ∧
      (atPc 0xFFF#16 (ready .base 0#16)).cfg.addrPolicy = .fault ∧
      memSize ≤ (atPc 0xFFF#16 (ready .base 0#16)).pc.toNat + 1) ∧
    memSize ≤ (atPc 0x1000#16 (ready .base 0#16)).pc.toNat + 1 := by decide

theorem witness_TickCountsTimersDown :
    { machine .base with st := 1#8, requests := [.tick] }.nextRequest = .tick := by decide

theorem witness_WarmResetKeepsMemoryAndRpl :
    { machine .base with requests := [.reset] }.nextRequest = .reset ∧
    { machine .base with requests := [.reset] }.cfg.regReset = .zero := by decide

theorem witness_ConstructionLoadsTheProgram :
    3584 < (List.replicate 3585 0#8).length ∧ (List.replicate 3584 0#8).length ≤ 3584 ∧
    0 < (List.replicate 3584 0#8).length ∧ 0x200 + (List.replicate 3584 0#8).length ≤ 0x1000 := by
  simp only [List.length_replicate]
  decide

theorem witness_FaultsOnlyAsListed :
    exec (.call 0x400#12) { machine .base with sp := 16 } = .fault (.stackOverflow 0x202#16 0x200#16) ∧
    exec .ret (machine .base) = .fault (.stackUnderflow 0x200#16) ∧
    exec (.ldB 0#4) (index 0xFFE#16 (machine .base)) = .fault (.addressRange 0x1000 0x200#16) ∧
    exec (.ldF 0#4) (regs [(0#4, 16#8)] (machine .base)) = .fault (.operandRange 16#8 0x200#16) ∧
    exec (.drw16 0#4 1#4) (regs [(0#4, 49#8)] (machine .extended)) = .fault (.framebufferRange 49 0 0x200#16) :=
  ⟨rfl, rfl, rfl, rfl, rfl⟩

theorem witness_ParametersNeverChange : ∃ t, step (ready .base 0x6A2C#16) = .next t := ⟨_, rfl⟩

theorem witness_StackAndRplHaveTheirOwnInstructions :
    (∃ t, exec .cls (machine .extended) = .next t) ∧ (∃ t, exec (.storeRpl 0#4) (machine .base) = .next t) ∧
    (machine .base).cfg.variant = .base ∧
    (∃ t, exec .ret { machine .base with sp := 1 } = .next t) := ⟨⟨_, rfl⟩, ⟨_, rfl⟩, rfl, ⟨_, rfl⟩⟩

theorem witness_FramebufferHasItsOwnInstructions :
    (∃ t, exec (.ldImm 0#4 1#8) (machine .extended) = .next t) ∧
    (∃ t, exec (.scd 1#4) (lit [(1, 1)] (machine .extended)) = .next t) := ⟨⟨_, rfl⟩, ⟨_, rfl⟩⟩

theorem witness_MemoryHasTwoWriters :
    (∃ t, exec (.loadRegs 0#4) (machine .extended) = .next t) ∧
    (∃ t, { machine .base with requests := [.tick] }.nextRequest = .tick ∧
      step { machine .base with requests := [.tick] } = .next t) := ⟨⟨_, rfl⟩, ⟨_, rfl, rfl⟩⟩

theorem witness_RegistersChangeOnlyAsListed :
    (∃ t, exec (.addReg 0#4 1#4) (machine .base) = .next t) ∧ 2#4 ∉ mayWrite .base (.addReg 0#4 1#4) :=
  ⟨⟨_, rfl⟩, by decide⟩

theorem witness_IndexHasItsOwnInstructions :
    (∃ t, exec (.storeRegs 3#4) (machine .extended) = .next t) ∧ (machine .extended).cfg.variant = .extended ∧
    (∃ t, exec .cls (machine .base) = .next t) := ⟨⟨_, rfl⟩, rfl, ⟨_, rfl⟩⟩

theorem witness_TimersRiseOnlyByTheirLoads :
    (∃ t, step (regs [(4#4, 1#8)] (ready .base 0xF415#16)) = .next t ∧
      (regs [(4#4, 1#8)] (ready .base 0xF415#16)).dt.toNat < t.dt.toNat) ∧
    (∃ t, step (regs [(4#4, 1#8)] (ready .base 0xF418#16)) = .next t ∧
      (regs [(4#4, 1#8)] (ready .base 0xF418#16)).st.toNat < t.st.toNat) :=
  ⟨⟨_, rfl, by decide⟩, ⟨_, rfl, by decide⟩⟩

theorem witness_ControlStateHasItsOwnInstructions :
    (∃ t, exec .cls { machine .base with kwait := some 3 } = .next t) ∧
    (∃ t, exec .exitReq (machine .extended) = .next t) := ⟨⟨_, rfl⟩, ⟨_, rfl⟩⟩

theorem witness_PcAfterEachInstruction :
    (∃ t, exec (.jpV0 0xFFF#12) (regs [(0#4, 255#8)] (machine .base)) = .next t) ∧
    (∃ t, exec .ret (legacy (machine .base)) = .next t) ∧
    (∃ t, exec .ret { machine .base with sp := 16 } = .next t) ∧
    (∃ t, exec (.skp 0#4) (mask4 (regs [(0#4, 16#8)] (machine .base))) = .next t) ∧
    (∃ t, exec (.ldVxK 0#4) { machine .base with kwait := some 3 } = .next t) :=
  ⟨⟨_, rfl⟩, ⟨_, rfl⟩, ⟨_, rfl⟩, ⟨_, rfl⟩, ⟨_, rfl⟩⟩

theorem witness_EveryStepKeepsTheStateWellFormed :
    (ready .extended 0x00FF#16).wf = true ∧ ∃ t, step (ready .extended 0x00FF#16) = .next t :=
  ⟨by decide, ⟨_, rfl⟩⟩

theorem witness_EveryStepKeepsTheKeyLatchAtItsInstruction :
    { ready .base 0xF30A#16 with kwait := some 7 }.latchOk = true ∧
    ∃ t, step { ready .base 0xF30A#16 with kwait := some 7 } = .next t := ⟨by decide, ⟨_, rfl⟩⟩

theorem witness_LogicClearsTheFlagOnTheBaseMachine :
    (14#4 : Nibble) ≠ flagReg ∧
    ∃ (i : Instr) (r : Byte), i = .xorReg 14#4 15#4 ∧
      r = (regs [(15#4, 1#8)] (machine .base)).reg 14#4 ^^^ (regs [(15#4, 1#8)] (machine .base)).reg 15#4 :=
  ⟨by decide, _, _, rfl, rfl⟩

/-- The flag clauses of ADD, SUB, SUBN, SHR and SHL ask only that x is not the flag register. -/
theorem witness_AddSetsTheCarry : (14#4 : Nibble) ≠ flagReg ∧ (0#4 : Nibble) ≠ flagReg := by decide

theorem witness_SubtractSetsNoBorrow : (14#4 : Nibble) ≠ flagReg ∧ (0#4 : Nibble) ≠ flagReg := by decide

theorem witness_ShiftsMoveByOneBit :
    (0xF0 : Nat) = (if (regs [(1#4, 5#8), (2#4, 0xF0#8)] (machine .base)).cfg.variant = .base then
      ((regs [(1#4, 5#8), (2#4, 0xF0#8)] (machine .base)).reg 2#4).toNat
      else ((regs [(1#4, 5#8), (2#4, 0xF0#8)] (machine .base)).reg 1#4).toNat) ∧ (1#4 : Nibble) ≠ flagReg := by decide

theorem witness_JumpLoadsPc : (atPc 0xFFE#16 (machine .base)).pc.toNat = (0xFFE#12 : Addr12).toNat := by decide

theorem witness_JumpWithOffsetAddsARegister : (machine .base).cfg.variant = .base ∧ (machine .extended).cfg.variant = .extended := by
  decide

theorem witness_CallPushesTheReturnAddress :
    { machine .base with sp := 15 }.sp.val = (15 : Fin 16).val ∧ (0 : Fin 16) ≠ 15 ∧
    ({ machine .base with sp := 16 }.sp.val = 16 ∧ { machine .base with sp := 16 }.cfg.stackPolicy = .fault) ∧
    ((legacy { machine .base with sp := 16 }).sp.val = 16 ∧
      (legacy { machine .base with sp := 16 }).cfg.stackPolicy = .legacySilent) := by decide

theorem witness_ReturnPopsIntoPc :
    { machine .base with sp := 16 }.sp.val = (15 : Fin 16).val + 1 ∧
    { machine .base with sp := 1 }.sp.val = (0 : Fin 16).val + 1 ∧
    ((machine .base).sp.val = 0 ∧ (machine .base).cfg.stackPolicy = .fault) ∧
    ((legacy (machine .base)).sp.val = 0 ∧ (legacy (machine .base)).cfg.stackPolicy = .legacySilent) := by decide

theorem witness_ReturnGoesBehindTheCall :
    { machine .base with sp := 15 }.sp.val < 16 ∧
    ∃ t u : State, exec (.call 0x300#12) { machine .base with sp := 15 } = .next t ∧ u.stk = t.stk ∧ u.sp = t.sp :=
  ⟨by decide, ⟨_, _, rfl, rfl, rfl⟩⟩

theorem witness_SysOnlyGivesANotice :
    ∀ a ∈ [0x0BF#12, 0x0D0#12, 0x0FA#12, 0x100#12], a ≠ 0x0E0#12 ∧ a ≠ 0x0EE#12 ∧ a.toNat / 16 ≠ 0x0C ∧
      ¬(0x0FB ≤ a.toNat ∧ a.toNat ≤ 0x0FF) := by decide

theorem witness_GlyphAddressesAreComputed :
    (regs [(0#4, 15#8)] (machine .extended)).digitOk 0#4 ∧ (machine .extended).cfg.variant = .extended ∧
    (mask4 (regs [(0#4, 255#8)] (machine .base))).digitOk 0#4 ∧
    15 < ((regs [(0#4, 16#8)] (machine .extended)).reg 0#4).toNat ∧
    (regs [(0#4, 16#8)] (machine .extended)).cfg.digitPolicy = .fault ∧
    (regs [(0#4, 16#8)] (machine .extended)).cfg.variant = .extended :=
  ⟨.inl (by decide), rfl, .inr rfl, by decide, rfl, rfl⟩

theorem witness_BcdDigitsAreStored : (index 0xFFD#16 (machine .base)).reaches 3 ∧
    (wrap12 (index 0xFFFF#16 (machine .base))).reaches 3 := ⟨.inr (.inl (by decide)), .inr (.inr rfl)⟩

theorem witness_RegisterBlockIsStored :
    ((index 0xFF0#16 (machine .base)).reaches ((15#4 : Nibble).toNat + 1) ∧ (15#4).toNat ≤ (15#4 : Nibble).toNat ∧
      (index 0xFF0#16 (machine .base)).cfg.variant = .base) ∧
    ((wrap12 (index 0xFFFF#16 (machine .extended))).reaches ((15#4 : Nibble).toNat + 1) ∧
      (wrap12 (index 0xFFFF#16 (machine .extended))).cfg.variant = .extended) ∧
    (0xFFF < (index 0xFF1#16 (machine .base)).idx.toNat + (15#4 : Nibble).toNat ∧
      (index 0xFF1#16 (machine .base)).cfg.addrPolicy = .fault) :=
  ⟨⟨.inr (.inl (by decide)), by decide, rfl⟩, ⟨.inr (.inr rfl), rfl⟩, by decide, rfl⟩

theorem witness_RegisterBlockIsLoaded :
    ((index 0xFFF#16 (machine .base)).reaches ((0#4 : Nibble).toNat + 1) ∧ (0#4).toNat ≤ (0#4 : Nibble).toNat ∧
      (0#4 : Nibble).toNat < (1#4).toNat ∧ (index 0xFFF#16 (machine .base)).cfg.variant = .base) ∧
    ((wrap12 (index 0xFFFF#16 (machine .extended))).reaches ((15#4 : Nibble).toNat + 1) ∧
      (wrap12 (index 0xFFFF#16 (machine .extended))).cfg.variant = .extended) ∧
    (0xFFF < (index 0x1000#16 (machine .base)).idx.toNat + (0#4 : Nibble).toNat ∧
      (index 0x1000#16 (machine .base)).cfg.addrPolicy = .fault) :=
  ⟨⟨.inr (.inl (by decide)), by decide, by decide, rfl⟩, ⟨.inr (.inr rfl), rfl⟩, by decide, rfl⟩

theorem witness_BcdAndSpritesBeyondMemoryFault :
    (machine .extended).cfg.addrPolicy = .fault ∧ (machine .extended).cfg.variant = .extended ∧
    memSize < (index 0xFFE#16 (machine .extended)).idx.toNat + 3 ∧
    ((1#4 : Nibble) ≠ 0#4 ∧ memSize < (index 0x1000#16 (machine .extended)).idx.toNat + (1#4 : Nibble).toNat) ∧
    memSize < (index 0xFE1#16 (machine .extended)).idx.toNat + 32 := by decide

theorem witness_BlockStoreThenLoadRoundTrips :
    ∃ t u : State, exec (.storeRegs 3#4) (index 0x300#16 (machine .base)) = .next t ∧ u.mem = t.mem ∧
      u.idx = (index 0x300#16 (machine .base)).idx ∧ u.cfg = (index 0x300#16 (machine .base)).cfg ∧
      (3#4).toNat ≤ (3#4 : Nibble).toNat :=
  ⟨_, { index 0x300#16 (machine .base) with mem := _ }, rfl, rfl, rfl, rfl, by decide⟩

theorem witness_DrawXorsTheClippedSprite :
    ((15#4 : Nibble) ≠ 0#4 ∧ (index 0xFF1#16 (machine .extended)).reaches (15#4 : Nibble).toNat) ∧
    ((machine .base).cfg.variant = .base ∧ (index 0xFFFF#16 (machine .base)).reaches (0#4 : Nibble).toNat) ∧
    (machine .extended).cfg.variant = .extended :=
  ⟨⟨by decide, .inr (.inl (by decide))⟩, ⟨rfl, .inl rfl⟩, rfl⟩

theorem witness_DrawingTwiceRestoresTheGrid :
    ∃ t u : State, (1#4 : Nibble) ≠ 0#4 ∧ exec (.drw 0#4 1#4 1#4) (index 0x50#16 (machine .base)) = .next t ∧
      u.fb = t.fb ∧ u.idx = (index 0x50#16 (machine .base)).idx ∧ u.cfg = (index 0x50#16 (machine .base)).cfg ∧
      (∀ a, u.mem.read a = (index 0x50#16 (machine .base)).mem.read a) ∧
      u.reg 0#4 = (index 0x50#16 (machine .base)).reg 0#4 ∧ u.reg 1#4 = (index 0x50#16 (machine .base)).reg 1#4 ∧
      (index 0x50#16 (machine .base)).fb.wf = true :=
  ⟨_, { index 0x50#16 (machine .base) with fb := _ }, by decide, rfl, rfl, rfl, rfl, fun _ => rfl, rfl, rfl,
    by decide⟩

theorem witness_Draw16XorsTheSpriteThatFits :
    ((index 0xFE0#16 (regs [(0#4, 48#8), (1#4, 16#8)] (machine .extended))).cfg.variant = .extended ∧
      (index 0xFE0#16 (regs [(0#4, 48#8), (1#4, 16#8)] (machine .extended))).reaches 32 ∧
      (index 0xFE0#16 (regs [(0#4, 48#8), (1#4, 16#8)] (machine .extended))).fits16 0#4 1#4) ∧
    (machine .base).cfg.variant = .base :=
  ⟨⟨rfl, .inr (.inl (by decide)), ⟨by decide, by decide⟩⟩, rfl⟩

/-- A 16 by 16 sprite with its left half on the last font byte, at column `c`, under an edge policy. -/
def ready16 (e : Draw16Edge) (c : Byte) : State := edge e (index 0x9F#16 (regs [(0#4, c)] (machine .extended)))

/-- A sprite that fits, one that is clipped and one that is wrapped. -/
theorem witness_DrawingTwice16RestoresTheGrid (e : Draw16Edge) (c : Byte)
    (h : (e, c) ∈ [(Draw16Edge.fault, 48#8), (.drop, 49#8), (.wrap, 63#8)]) :
    ∃ t u : State, (ready16 e c).cfg.variant = .extended ∧ (ready16 e c).fb.wf = true ∧
      exec (.drw16 0#4 1#4) (ready16 e c) = .next t ∧ u.fb = t.fb ∧ u.idx = (ready16 e c).idx ∧
      u.cfg = (ready16 e c).cfg ∧ (∀ a, u.mem.read a = (ready16 e c).mem.read a) ∧
      u.reg 0#4 = (ready16 e c).reg 0#4 ∧ u.reg 1#4 = (ready16 e c).reg 1#4 := by
  have hran : ran (exec (.drw16 0#4 1#4) (ready16 e c)) (fun _ => true) = true := by
    revert h
    cases e <;> simp only [List.mem_cons, Prod.mk.injEq, reduceCtorEq, List.not_mem_nil, true_and,
      false_and, or_false, false_or] <;> rintro rfl <;> decide
  obtain ⟨t, ht⟩ := next_of_ran _ _ hran
  exact ⟨t, { ready16 e c with fb := t.fb }, rfl, rfl, ht, rfl, rfl, rfl, fun _ => rfl, rfl, rfl⟩

theorem witness_Draw16EdgeFollowsThePolicy (e : Draw16Edge) :
    (edge e (regs [(0#4, 49#8)] (machine .extended))).cfg.variant = .extended ∧
    (edge e (regs [(0#4, 49#8)] (machine .extended))).reaches 32 ∧
    ¬(edge e (regs [(0#4, 49#8)] (machine .extended))).fits16 0#4 1#4 ∧
    (edge e (regs [(0#4, 49#8)] (machine .extended))).cfg.draw16Edge = e ∧
    (edge e (regs [(0#4, 49#8)] (machine .extended))).fb.wf = true := by
  refine ⟨rfl, .inr (.inl (by cases e <;> decide)), fun h => ?_, rfl, by cases e <;> decide⟩
  exact absurd h.1 (by cases e <;> decide)

/-- The scrolls, the resolution switches, EXIT and the RPL transfers ask only for the extended machine. -/
theorem witness_ScrollsMoveEveryPixel : (lit [(63, 31)] (machine .extended)).cfg.variant = .extended ∧
    63 < (lit [(63, 31)] (machine .extended)).fb.w ∧ 31 < (lit [(63, 31)] (machine .extended)).fb.h := by decide

theorem witness_ResolutionSwitchReplacesTheGrid : (high (machine .extended)).cfg.variant = .extended := by decide

theorem witness_ExitSignalsAndHalts : (machine .extended).cfg.variant = .extended := by decide

theorem witness_RplTransfersClampAtSeven : (machine .extended).cfg.variant = .extended ∧
    (7 : Fin 8).val ≤ (15#4 : Nibble).toNat ∧ (3#4 : Nibble).toNat < (4 : Fin 8).val ∧
    ((15#4 : Nibble).toNat < (8#4 : Nibble).toNat ∨ 7 < (8#4 : Nibble).toNat) := by decide

theorem witness_KeyQueriesSkip :
    ((regs [(1#4, 15#8)] (machine .base)).digitOk 1#4 ∧
      (15 : Fin 16).val = ((regs [(1#4, 15#8)] (machine .base)).reg 1#4).toNat % 16) ∧
    ((mask4 (regs [(1#4, 255#8)] (machine .base))).digitOk 1#4 ∧
      (15 : Fin 16).val = ((mask4 (regs [(1#4, 255#8)] (machine .base))).reg 1#4).toNat % 16) ∧
    (15 < ((regs [(1#4, 16#8)] (machine .base)).reg 1#4).toNat ∧
      (regs [(1#4, 16#8)] (machine .base)).cfg.digitPolicy = .fault) :=
  ⟨⟨.inl (by decide), by decide⟩, ⟨.inr rfl, by decide⟩, by decide, rfl⟩

theorem witness_KeyWaitLatchesThenCompletesOnRelease :
    ((machine .base).kwait = none ∧ ∀ k : Fin 16, (machine .base).keys[k] = false) ∧
    ({ machine .base with keys := oneKey 15 }.kwait = none ∧
      { machine .base with keys := oneKey 15 }.keys[(15 : Fin 16)] = true ∧
      ∀ j : Fin 16, j < 15 → { machine .base with keys := oneKey 15 }.keys[j] = false) ∧
    ({ machine .base with keys := oneKey 7, kwait := some 7 }.kwait = some 7 ∧
      { machine .base with keys := oneKey 7, kwait := some 7 }.keys[(7 : Fin 16)] = true) ∧
    ({ machine .base with keys := oneKey 9, kwait := some 7 }.kwait = some 7 ∧
      { machine .base with keys := oneKey 9, kwait := some 7 }.keys[(7 : Fin 16)] = false) := by decide

theorem witness_ExtendedInstructionsOnTheBaseMachine :
    (machine .base).cfg.variant = .base ∧
    (Instr.scr = .scd 5#4 ∨ Instr.scr = .scr ∨ Instr.scr = .scl ∨ Instr.scr = .exitReq ∨ Instr.scr = .low ∨
      Instr.scr = .high) ∧
    (Instr.ldHf 5#4 = .ldHf 5#4 ∨ Instr.ldHf 5#4 = .storeRpl 5#4 ∨ Instr.ldHf 5#4 = .loadRpl 5#4) := by decide

end Sys2Proof.Tests
end

