-- ==== Sys2Proof/Proofs/BaseMachine.lean ====
section
/-! The extended instructions on the base machine (30_encoding.md R98, R100): what each gated meaning is
there, then the two notices in terms of the instruction's word. -/

namespace Sys2Proof.Machine

/-! ### The base side of each gated meaning -/

section
variable {s : State} (hbase : s.cfg.variant = .base)
include hbase

theorem execScd_base (n : Nibble) : execScd n s = .next (s.sysNotice (0x0C#8 ++ n)) := by
  simp only [execScd, hbase]

theorem execScr_base : execScr s = .next (s.sysNotice 0x0FB#12) := by
  simp only [execScr, hbase]

theorem execScl_base : execScl s = .next (s.sysNotice 0x0FC#12) := by
  simp only [execScl, hbase]

theorem execExit_base : execExit s = .next (s.sysNotice 0x0FD#12) := by
  simp only [execExit, hbase]

theorem execLow_base : execLow s = .next (s.sysNotice 0x0FE#12) := by
  simp only [execLow, hbase]

theorem execHigh_base : execHigh s = .next (s.sysNotice 0x0FF#12) := by
  simp only [execHigh, hbase]

theorem execLdHf_base (x : Nibble) : execLdHf x s = .next (s.unknownNotice (encode (.ldHf x))) := by
  simp only [execLdHf, hbase, encode]

theorem execStoreRpl_base (x : Nibble) :
    execStoreRpl x s = .next (s.unknownNotice (encode (.storeRpl x))) := by
  simp only [execStoreRpl, hbase, encode]

theorem execLoadRpl_base (x : Nibble) :
    execLoadRpl x s = .next (s.unknownNotice (encode (.loadRpl x))) := by
  simp only [execLoadRpl, hbase, encode]

end

/-! ### The notices in terms of the word -/

/-- The address field of SCD's word, which its base meaning hands to SYS (R91, R100). -/
theorem nnn_encode_scd (n : Nibble) : (encode (.scd n)).extractLsb' 0 12 = 0x0C#8 ++ n :=
  congrArg Fields.nnn (fields_scd n)

/-- The extended instructions of opcode 0 are SYS of their words' address fields on the base machine. -/
theorem exec_extendedOp0_base {s : State} (hbase : s.cfg.variant = .base) {n : Nibble} {i : Instr}
    (hi : i = .scd n ∨ i = .scr ∨ i = .scl ∨ i = .exitReq ∨ i = .low ∨ i = .high) :
    exec i s = .next (s.sysNotice ((encode i).extractLsb' 0 12)) := by
  rcases hi with rfl | rfl | rfl | rfl | rfl | rfl
  · rw [nnn_encode_scd]
    exact execScd_base hbase n
  · exact execScr_base hbase
  · exact execScl_base hbase
  · exact execExit_base hbase
  · exact execLow_base hbase
  · exact execHigh_base hbase

/-- The extended instructions of opcode F are unknown words on the base machine. -/
theorem exec_extendedOpF_base {s : State} (hbase : s.cfg.variant = .base) {x : Nibble} {i : Instr}
    (hi : i = .ldHf x ∨ i = .storeRpl x ∨ i = .loadRpl x) :
    exec i s = .next (s.unknownNotice (encode i)) := by
  rcases hi with rfl | rfl | rfl
  · exact execLdHf_base hbase x
  · exact execStoreRpl_base hbase x
  · exact execLoadRpl_base hbase x

/-- Settles O59: each gated meaning takes its base branch, whose notice carries the instruction's own word;
`State.sysNotice` and `State.unknownNotice` are the two next states written out. -/
theorem extendedInstructionsOnTheBaseMachine : Obligations.ExtendedInstructionsOnTheBaseMachine := by
  intro s x i hbase
  exact ⟨exec_extendedOp0_base hbase, exec_extendedOpF_base hbase⟩

end Sys2Proof.Machine
end

section
/-! JP (40_control_flow.md R121): the state it answers, the frame of a write to PC alone, and its word. -/

namespace Sys2Proof

/-- The decoder's answer is the instruction it selects on the word's fields (R95). -/
theorem decode_of_decodeFields {v : Variant} {w : Word} {i : Instr} (h : decodeFields v (fields w) = some i) :
    decode v w = .ok i := by
  rw [decode, h]

/-- JP is the only row of opcode 1, on both machines. -/
theorem decode_jp (v : Variant) (nnn : Addr12) : decode v (0x1#4 ++ nnn) = .ok (.jp nnn) := by
  apply decode_of_decodeFields
  rw [fields_A]
  rfl

end Sys2Proof

namespace Sys2Proof.Machine

/-- A new value of PC leaves everything else as it was. -/
theorem pcFrame_with_pc (s : State) (p : Word) : PcFrame s { s with pc := p } :=
  ⟨fun _ _ => rfl, fun _ _ => rfl, rfl⟩

theorem exec_jp (nnn : Addr12) (s : State) : exec (.jp nnn) s = .next { s with pc := nnn.setWidth 16 } := rfl

/-- A jump to its own address: PC already is the zero-extended target. -/
theorem exec_jp_self {nnn : Addr12} {s : State} (h : s.pc.toNat = nnn.toNat) : exec (.jp nnn) s = .next s := by
  have hpc : nnn.setWidth 16 = s.pc := by
    apply BitVec.eq_of_toNat_eq
    rw [BitVec.toNat_setWidth_of_le (by decide), h]
  rw [exec_jp, hpc]

/-- Settles O33: JP writes PC alone, so where PC already is the target it changes nothing. -/
theorem jumpLoadsPc : Obligations.JumpLoadsPc := by
  intro s nnn
  exact ⟨⟨_, exec_jp nnn s, rfl, pcFrame_with_pc s _⟩, exec_jp_self, fun v => decode_jp v nnn⟩

end Sys2Proof.Machine
end

section
/-! The register operations of opcode 8 (41_alu.md R140, R144 to R151): the word of each, what the two forms of
write leave behind, and the flag each writes in terms of the operands' values. -/

namespace Sys2Proof

/-- Decoding a word of the format opcode, two registers and a nibble is selecting on its fields (R92, R95). -/
theorem decode_XYN {v : Variant} {op x y n : Nibble} {i : Instr}
    (h : decodeFields v { op := op, x := x, y := y, n := n, nn := y ++ n, nnn := x ++ y ++ n } = some i) :
    decode v (op ++ x ++ y ++ n) = .ok i :=
  decode_of_decodeFields (by rw [fields_XYN, h])

end Sys2Proof

namespace Sys2Proof.Machine

/-! ### The two forms of write -/

/-- A change of registers and PC that keeps the registers outside `ws` has the frame of the register
instructions: memory is among what stays. -/
theorem regFrame_of_regsKept {s t : State} {ws : List Nibble} (hregs : RegsKept s t ws)
    (ht : t = { s with v := t.v, pc := t.pc }) : RegFrame s t ws :=
  ⟨hregs, fun _ _ => by rw [ht], ht⟩

section
variable (s : State) (flag : Bool) (x : Nibble) (b : Byte)

theorem reg_setFlagged_same : (s.advance.setFlagged flag x b).reg x = b := by
  rw [State.reg_setFlagged, if_pos rfl]

theorem reg_setFlagged_flag {x : Nibble} (hx : x ≠ flagReg) :
    (s.advance.setFlagged flag x b).reg flagReg = flagByte flag := by
  rw [State.reg_setFlagged, if_neg hx, if_pos rfl]

theorem regFrame_setFlagged : RegFrame s (s.advance.setFlagged flag x b) [x, flagReg] := by
  refine regFrame_of_regsKept (fun r hr => ?_) rfl
  obtain ⟨hrx, hrf⟩ : r ≠ x ∧ r ≠ flagReg := by simpa using hr
  rw [State.reg_setFlagged, if_neg hrx.symm, if_neg hrf.symm, State.advance_reg]

theorem reg_setLogic_same : (s.advance.setLogic x b).reg x = b := by
  rw [State.reg_setLogic, if_pos rfl]

theorem reg_setLogic_flag {x : Nibble} (hx : x ≠ flagReg) :
    (s.advance.setLogic x b).reg flagReg = if s.cfg.variant = .base then 0#8 else s.reg flagReg := by
  simp [State.reg_setLogic, hx]

theorem setLogic_advance_pc : (s.advance.setLogic x b).pc = s.pc + 2#16 := by
  rw [State.setLogic_frame, State.advance_pc]

theorem regFrame_setLogic : RegFrame s (s.advance.setLogic x b) [x, flagReg] := by
  refine regFrame_of_regsKept (fun r hr => ?_) ?_
  · obtain ⟨hrx, hrf⟩ : r ≠ x ∧ r ≠ flagReg := by simpa using hr
    rw [State.reg_setLogic, if_neg hrx.symm, if_neg fun h => hrf h.1.symm, State.advance_reg]
  · rw [State.setLogic_frame]
    rfl

end

/-! ### The flags and results as numbers -/

theorem flagByte_carryOut (a b : Byte) :
    flagByte (carryOut a b) = if 255 < a.toNat + b.toNat then 1#8 else 0#8 := by
  simp only [flagByte, carryOut, decide_eq_true_eq]

theorem flagByte_noBorrow (a b : Byte) :
    flagByte (noBorrow a b) = if a.toNat < b.toNat then 0#8 else 1#8 := by
  simp only [flagByte, noBorrow, decide_eq_true_eq, ← Nat.not_lt, ite_not]

theorem toNat_flagByte (f : Bool) : (flagByte f).toNat = f.toNat := by
  cases f <;> rfl

theorem toNat_flagByte_lowBit (a : Byte) : (flagByte (lowBit a)).toNat = a.toNat % 2 := by
  rw [toNat_flagByte, lowBit, BitVec.getLsbD, Nat.toNat_testBit, pow_zero, Nat.div_one]

theorem toNat_flagByte_highBit (a : Byte) : (flagByte (highBit a)).toNat = a.toNat / 128 := by
  rw [toNat_flagByte, highBit, BitVec.getLsbD, Nat.toNat_testBit]
  have := a.isLt
  omega

theorem toNat_sub_byte (a b : Byte) : (a - b).toNat = (a.toNat + 256 - b.toNat) % 256 := by
  rw [BitVec.toNat_sub]
  have := b.isLt
  omega

theorem toNat_shiftSource (s : State) (x y : Nibble) :
    (s.shiftSource x y).toNat = if s.cfg.variant = .base then (s.reg y).toNat else (s.reg x).toNat := by
  unfold State.shiftSource
  cases s.cfg.variant <;> rfl

/-! ### The instructions -/

/-- The three logic instructions write their result by the one rule of R144 to R146. -/
theorem exec_logic {s : State} {x y : Nibble} {i : Instr} {r : Byte}
    (hi : (i = .orReg x y ∧ r = s.reg x ||| s.reg y) ∨ (i = .andReg x y ∧ r = s.reg x &&& s.reg y) ∨
      (i = .xorReg x y ∧ r = s.reg x ^^^ s.reg y)) : exec i s = .next (s.advance.setLogic x r) := by
  obtain ⟨rfl, rfl⟩ | ⟨rfl, rfl⟩ | ⟨rfl, rfl⟩ := hi <;> rfl

/-- Settles O28: the logic write puts the result in `V[x]` last, after the base machine's clear of VF. -/
theorem logicClearsTheFlagOnTheBaseMachine : Obligations.LogicClearsTheFlagOnTheBaseMachine := by
  intro s x y
  refine ⟨fun i r hi => ?_, fun v => ⟨decode_XYN rfl, decode_XYN rfl, decode_XYN rfl⟩⟩
  exact ⟨_, exec_logic hi, reg_setLogic_same s x r, reg_setLogic_flag s r, setLogic_advance_pc s x r,
    regFrame_setLogic s x r⟩

theorem exec_addReg (s : State) (x y : Nibble) :
    exec (.addReg x y) s =
      .next (s.advance.setFlagged (carryOut (s.reg x) (s.reg y)) x (s.reg x + s.reg y)) := rfl

theorem exec_subReg (s : State) (x y : Nibble) :
    exec (.subReg x y) s =
      .next (s.advance.setFlagged (noBorrow (s.reg x) (s.reg y)) x (s.reg x - s.reg y)) := rfl

theorem exec_subn (s : State) (x y : Nibble) :
    exec (.subn x y) s =
      .next (s.advance.setFlagged (noBorrow (s.reg y) (s.reg x)) x (s.reg y - s.reg x)) := rfl

theorem exec_shr (s : State) (x y : Nibble) :
    exec (.shr x y) s =
      .next (s.advance.setFlagged (lowBit (s.shiftSource x y)) x (s.shiftSource x y >>> 1)) := rfl

theorem exec_shl (s : State) (x y : Nibble) :
    exec (.shl x y) s =
      .next (s.advance.setFlagged (highBit (s.shiftSource x y)) x (s.shiftSource x y <<< 1)) := rfl

/-- What a flag-writing instruction leaves behind (R140): the result in `V[x]`, the flag in VF unless `x` is
the flag register, and PC past the instruction. -/
theorem exists_next_of_setFlagged {i : Instr} {s : State} {flag : Bool} {x : Nibble} {b : Byte}
    (hexec : exec i s = .next (s.advance.setFlagged flag x b)) :
    ∃ t, exec i s = .next t ∧ t.reg x = b ∧ (x ≠ flagReg → t.reg flagReg = flagByte flag) ∧
      t.pc = s.pc + 2#16 ∧ RegFrame s t [x, flagReg] :=
  ⟨_, hexec, reg_setFlagged_same s flag x b, reg_setFlagged_flag s flag b, rfl, regFrame_setFlagged s flag x b⟩

/-- Settles O29: the 8-bit sum is the sum mod 256, and the flag is the carry. -/
theorem addSetsTheCarry : Obligations.AddSetsTheCarry := by
  intro s x y
  refine ⟨?_, fun v => decode_XYN rfl⟩
  obtain ⟨t, ht, hres, hflag, hpc, hframe⟩ := exists_next_of_setFlagged (exec_addReg s x y)
  rw [flagByte_carryOut] at hflag
  exact ⟨t, ht, by rw [hres, BitVec.toNat_add], hflag, hpc, hframe⟩

/-- A subtraction of `b` from `a` leaves the difference mod 256 and the no-borrow flag (R148, R150). -/
theorem exists_next_of_subtract {i : Instr} {s : State} {x : Nibble} {a b : Byte}
    (hexec : exec i s = .next (s.advance.setFlagged (noBorrow a b) x (a - b))) :
    ∃ t, exec i s = .next t ∧ (t.reg x).toNat = (a.toNat + 256 - b.toNat) % 256 ∧
      (x ≠ flagReg → t.reg flagReg = if a.toNat < b.toNat then 0#8 else 1#8) ∧
      t.pc = s.pc + 2#16 ∧ RegFrame s t [x, flagReg] := by
  obtain ⟨t, ht, hres, hflag, hpc, hframe⟩ := exists_next_of_setFlagged hexec
  rw [flagByte_noBorrow] at hflag
  exact ⟨t, ht, by rw [hres, toNat_sub_byte], hflag, hpc, hframe⟩

/-- Settles O30: SUB and SUBN are one subtraction with the operands exchanged. -/
theorem subtractSetsNoBorrow : Obligations.SubtractSetsNoBorrow := by
  intro s x y
  exact ⟨exists_next_of_subtract (exec_subReg s x y), exists_next_of_subtract (exec_subn s x y),
    fun v => ⟨decode_XYN rfl, decode_XYN rfl⟩⟩

/-- Settles O31: `n` is the shift source of the variant; halving drops its low bit, doubling its high bit. -/
theorem shiftsMoveByOneBit : Obligations.ShiftsMoveByOneBit := by
  intro s x y n hn
  rw [← toNat_shiftSource] at hn
  subst hn
  refine ⟨?_, ?_, fun v => ⟨decode_XYN rfl, decode_XYN rfl⟩⟩
  · obtain ⟨t, ht, hres, hflag, hpc, hframe⟩ := exists_next_of_setFlagged (exec_shr s x y)
    exact ⟨t, ht, by rw [hres, BitVec.toNat_ushiftRight, Nat.shiftRight_one],
      fun hx => by rw [hflag hx, toNat_flagByte_lowBit], hpc, hframe⟩
  · obtain ⟨t, ht, hres, hflag, hpc, hframe⟩ := exists_next_of_setFlagged (exec_shl s x y)
    exact ⟨t, ht, by rw [hres, BitVec.toNat_shiftLeft, Nat.shiftLeft_eq, pow_one],
      fun hx => by rw [hflag hx, toNat_flagByte_highBit], hpc, hframe⟩

end Sys2Proof.Machine
end

section
/-! LD [I],Vx and LD Vx,[I] (42_index_memory.md R164, R165): the words, where `I` stands afterwards, and the two
answers of each transfer, in reach and beyond memory. -/

namespace Sys2Proof

/-- Decoding a word of the format opcode, register and byte is selecting on its fields (R92, R95). -/
theorem decode_XI {v : Variant} {op x : Nibble} {nn : Byte} {i : Instr}
    (h : decodeFields v
      { op := op, x := x, y := nn.extractLsb' 4 4, n := nn.extractLsb' 0 4, nn := nn, nnn := x ++ nn } = some i) :
    decode v (op ++ x ++ nn) = .ok i :=
  decode_of_decodeFields (by rw [fields_XI, h])

end Sys2Proof

namespace Sys2Proof.Machine

/-! ### The index register after a transfer -/

theorem toNat_indexAfterBlock_base {s : State} (hbase : s.cfg.variant = .base) (x : Nibble) :
    (s.indexAfterBlock x).toNat = (s.idx.toNat + x.toNat + 1) % 65536 := by
  simp only [State.indexAfterBlock, hbase, BitVec.toNat_add, BitVec.toNat_ofNat]
  omega

theorem indexAfterBlock_extended {s : State} (hext : s.cfg.variant = .extended) (x : Nibble) :
    s.indexAfterBlock x = s.idx := by
  simp only [State.indexAfterBlock, hext]

/-! ### The store -/

theorem exec_storeRegs (x : Nibble) (s : State) :
    exec (.storeRegs x) s = orRaise (s.writeBytes s.idx.toNat (s.firstRegs (x.toNat + 1))) fun t =>
      .next { t.advance with idx := s.indexAfterBlock x } := rfl

theorem firstRegs_getD_toNat (s : State) {x k : Nibble} (hk : k.toNat ≤ x.toNat) (d : Byte) :
    (s.firstRegs (x.toNat + 1)).getD k.toNat d = s.reg k := by
  rw [State.firstRegs_getD s _ _ (Nat.lt_succ_of_le hk), BitVec.ofNat_toNat, BitVec.setWidth_eq]

/-- A store in reach: the new memory holds the registers in their places and every other byte as before. -/
theorem exec_storeRegs_of_reaches {s : State} {x : Nibble} (h : s.reaches (x.toNat + 1)) :
    ∃ m : Mem, exec (.storeRegs x) s =
        .next { s with mem := m, idx := s.indexAfterBlock x, pc := s.pc + 2#16 } ∧
      (∀ k : Nibble, k.toNat ≤ x.toNat → m.read ((s.idx.toNat + k.toNat) % memSize) = s.reg k) ∧
      (∀ a, a ∉ s.places (x.toNat + 1) → m.read a = s.mem.read a) := by
  have hlen : (s.firstRegs (x.toNat + 1)).length = x.toNat + 1 := s.firstRegs_length _
  have hmax : x.toNat + 1 ≤ memSize := by
    have := x.isLt
    simp only [memSize]
    omega
  obtain ⟨m, hw, hin, hout⟩ := State.writeBytes_ok s s.idx.toNat (s.firstRegs (x.toNat + 1))
    (by rwa [hlen]) (by rwa [hlen])
  rw [hlen] at hin hout
  refine ⟨m, ?_, fun k hk => ?_, fun a ha => hout a fun k hk hka => ha ?_⟩
  · rw [exec_storeRegs, hw, orRaise_ok]
    rfl
  · rw [hin _ (Nat.lt_succ_of_le hk), firstRegs_getD_toNat s hk]
  · exact List.mem_map.mpr ⟨k, List.mem_range.mpr hk, hka⟩

/-- A store that reaches beyond memory faults at the first address above 0xFFF (R68, R226). -/
theorem exec_storeRegs_beyond {s : State} {x : Nibble} (h : 0xFFF < s.idx.toNat + x.toNat)
    (hp : s.cfg.addrPolicy = .fault) :
    exec (.storeRegs x) s = .fault (.addressRange (max s.idx.toNat memSize) s.pc) := by
  have hfar : memSize < s.idx.toNat + (s.firstRegs (x.toNat + 1)).length := by
    simp only [State.firstRegs_length, memSize]
    omega
  have hne : s.firstRegs (x.toNat + 1) ≠ [] := List.ne_nil_of_length_eq_add_one (s.firstRegs_length _)
  rw [exec_storeRegs, State.writeBytes_error s _ _ hfar hne hp, orRaise_error]

/-- Settles O43: in reach the write puts every register in its place and changes no other byte; beyond memory
it raises before anything is kept. -/
theorem registerBlockIsStored : Obligations.RegisterBlockIsStored := by
  intro s x
  refine ⟨fun hreach => ?_, exec_storeRegs_beyond, fun v => decode_XI rfl⟩
  obtain ⟨m, ht, hin, hout⟩ := exec_storeRegs_of_reaches hreach
  exact ⟨_, ht, hin, fun hb => toNat_indexAfterBlock_base hb x, fun he => indexAfterBlock_extended he x, rfl,
    fun _ _ => rfl, hout, rfl⟩

/-! ### The load -/

theorem exec_loadRegs (x : Nibble) (s : State) :
    exec (.loadRegs x) s = orRaise (s.readBytes s.idx.toNat (x.toNat + 1)) fun bytes =>
      .next { (s.setFirstRegs bytes).advance with idx := s.indexAfterBlock x } := rfl

/-- A load in reach: the new registers are the places' bytes up to `x` and the old registers above. -/
theorem exec_loadRegs_of_reaches {s : State} {x : Nibble} (h : s.reaches (x.toNat + 1)) :
    ∃ t, exec (.loadRegs x) s = .next t ∧
      t = { s with v := t.v, idx := s.indexAfterBlock x, pc := s.pc + 2#16 } ∧
      (∀ k : Nibble, k.toNat ≤ x.toNat → t.reg k = s.mem.read ((s.idx.toNat + k.toNat) % memSize)) ∧
      (∀ k : Nibble, x.toNat < k.toNat → t.reg k = s.reg k) := by
  obtain ⟨t, ht⟩ := execLoadRegs_ok x s h
  obtain ⟨hframe, bytes, hbytes, hreg⟩ := execLoadRegs_next x s t ht
  rw [State.readBytes_ok s _ _ h, Except.ok.injEq] at hbytes
  refine ⟨t, ht, hframe, fun k hk => ?_, execLoadRegs_above x s t ht⟩
  rw [hreg, ← hbytes, List.getD_eq_getElem?_getD, List.getElem?_map,
    List.getElem?_range (Nat.lt_succ_of_le hk)]
  rfl

/-- A load that reaches beyond memory faults at the first address above 0xFFF (R68, R226). -/
theorem exec_loadRegs_beyond {s : State} {x : Nibble} (h : 0xFFF < s.idx.toNat + x.toNat)
    (hp : s.cfg.addrPolicy = .fault) :
    exec (.loadRegs x) s = .fault (.addressRange (max s.idx.toNat memSize) s.pc) := by
  have hfar : memSize < s.idx.toNat + (x.toNat + 1) := by
    simp only [memSize]
    omega
  rw [exec_loadRegs, State.readBytes_error s _ _ hfar (Nat.succ_pos _) hp, orRaise_error]

/-- Settles O44: in reach every register up to `x` is a place's byte, and all else but PC and `I` stays; beyond
memory the read raises before a register is written. -/
theorem registerBlockIsLoaded : Obligations.RegisterBlockIsLoaded := by
  intro s x
  refine ⟨fun hreach => ?_, exec_loadRegs_beyond, fun v => decode_XI rfl⟩
  obtain ⟨t, ht, hframe, hin, habove⟩ := exec_loadRegs_of_reaches hreach
  have hidx : t.idx = s.indexAfterBlock x := congrArg State.idx hframe
  have hpc : t.pc = s.pc + 2#16 := congrArg State.pc hframe
  refine ⟨t, ht, hin, habove, ?_, ?_, hpc, fun _ _ => by rw [hframe], by rw [hidx, hpc, ← hframe]⟩
  · exact fun hb => by rw [hidx, toNat_indexAfterBlock_base hb]
  · exact fun he => by rw [hidx, indexAfterBlock_extended he]

end Sys2Proof.Machine
end

section
/-! SKP and SKNP (44_keypad_timers.md R180, R181, R182): the key index a digit names, what a skip leaves behind,
and the two answers of each query, on a usable index and above 15. -/

namespace Sys2Proof.Machine

/-- A skip changes PC alone: past two instructions where the condition holds, past one where not (R129). -/
theorem exists_next_of_skipIf {i : Instr} {s : State} {c : Bool} (hexec : exec i s = .next (s.skipIf c)) :
    ∃ t, exec i s = .next t ∧ PcFrame s t ∧ t.pc = if c = true then s.pc + 4#16 else s.pc + 2#16 := by
  refine ⟨_, hexec, ?_, s.skipIf_pc c⟩
  rw [State.skipIf_eq]
  exact pcFrame_with_pc s _

/-- The low four bits of a register, as an index, are its value mod 16. -/
theorem toFin_lowNibble {b : Byte} {k : Fin 16} (hk : k.val = b.toNat % 16) :
    (b.extractLsb' 0 4).toFin = k := by
  apply Fin.ext
  rw [hk, BitVec.val_toFin, BitVec.extractLsb'_toNat, Nat.shiftRight_zero]

theorem exec_skp (x : Nibble) (s : State) :
    exec (.skp x) s = orRaise (s.digit x) fun k => .next (s.skipIf (s.key k.toFin)) := rfl

theorem exec_sknp (x : Nibble) (s : State) :
    exec (.sknp x) s = orRaise (s.digit x) fun k => .next (s.skipIf (!s.key k.toFin)) := rfl

section
variable {s : State} {x : Nibble} {k : Fin 16} (hok : s.digitOk x) (hk : k.val = (s.reg x).toNat % 16)
include hok hk

theorem exec_skp_of_digitOk : exec (.skp x) s = .next (s.skipIf s.keys[k]) := by
  rw [exec_skp, State.digit_ok s x hok, orRaise_ok, toFin_lowNibble hk, State.key]

theorem exec_sknp_of_digitOk : exec (.sknp x) s = .next (s.skipIf !s.keys[k]) := by
  rw [exec_sknp, State.digit_ok s x hok, orRaise_ok, toFin_lowNibble hk, State.key]

end

/-- The digit above 15 in terms of the register's value (R180). -/
theorem digit_error_of_lt {s : State} {x : Nibble} (h : 15 < (s.reg x).toNat)
    (hp : s.cfg.digitPolicy = .fault) : s.digit x = .error (.operandRange (s.reg x) s.pc) :=
  State.digit_error s x (fun hle => Nat.not_le_of_lt h (BitVec.le_def.mp hle)) hp

/-- Settles O56: on a usable index each query is the skip on the key named, SKNP's with the condition negated;
above 15 both raise the digit's fault. -/
theorem keyQueriesSkip : Obligations.KeyQueriesSkip := by
  intro s x
  refine ⟨fun k hok hk => ⟨exists_next_of_skipIf (exec_skp_of_digitOk hok hk), ?_⟩, fun hd hp => ⟨?_, ?_⟩,
    fun v => ⟨decode_XI rfl, decode_XI rfl⟩⟩
  · obtain ⟨t, ht, hframe, hpc⟩ := exists_next_of_skipIf (exec_sknp_of_digitOk hok hk)
    refine ⟨t, ht, hframe, ?_⟩
    rw [hpc]
    cases s.keys[k] <;> rfl
  · rw [exec_skp, digit_error_of_lt hd hp, orRaise_error]
  · rw [exec_sknp, digit_error_of_lt hd hp, orRaise_error]

end Sys2Proof.Machine
end

section
/-! The scrolls (45_extended.md R190 to R193): the word of each, its meaning on the extended machine, and the
frame of a new grid of the same size. -/

namespace Sys2Proof

/-- On the extended machine the words 00Cn are SCD's: the fully fixed rows of opcode 0 all have another `nn`. -/
theorem decode_scd (n : Nibble) : decode .extended (0x00C#12 ++ n) = .ok (.scd n) := by
  apply decode_of_decodeFields
  rw [fields_scd]
  revert n
  decide

theorem decode_scr : decode .extended 0x00FB#16 = .ok .scr := rfl

theorem decode_scl : decode .extended 0x00FC#16 = .ok .scl := rfl

end Sys2Proof

namespace Sys2Proof.Machine

section
variable {s : State} (hext : s.cfg.variant = .extended)
include hext

theorem exec_scd_extended (n : Nibble) :
    exec (.scd n) s = .next { s.advance with fb := s.fb.scrollDown n.toNat } := by
  simp only [exec, execScd, hext]

theorem exec_scr_extended : exec .scr s = .next { s.advance with fb := s.fb.scrollRight } := by
  simp only [exec, execScr, hext]

theorem exec_scl_extended : exec .scl s = .next { s.advance with fb := s.fb.scrollLeft } := by
  simp only [exec, execScl, hext]

end

/-- A new grid of the old dimensions, and PC past the instruction, change only pixels and PC. -/
theorem pixelFrame_advance_with_fb (s : State) {fb : Framebuffer} (hw : fb.w = s.fb.w) (hh : fb.h = s.fb.h) :
    PixelFrame s { s.advance with fb := fb } :=
  ⟨fun _ _ => rfl, fun _ _ => rfl, hw, hh, rfl⟩

/-- Settles O52: each scroll replaces the grid by its shift, of the same dimensions, whose pixels
`get_scrollDown`, `get_scrollRight` and `get_scrollLeft` give. -/
theorem scrollsMoveEveryPixel : Obligations.ScrollsMoveEveryPixel := by
  intro s n hext
  refine ⟨⟨_, exec_scd_extended hext n, rfl, pixelFrame_advance_with_fb s rfl rfl, fun cx cy _ hcy => ?_⟩,
    ⟨_, exec_scr_extended hext, rfl, pixelFrame_advance_with_fb s rfl rfl, fun cx cy hcx _ => ?_⟩,
    ⟨_, exec_scl_extended hext, rfl, pixelFrame_advance_with_fb s rfl rfl, fun cx cy _ _ => ?_⟩,
    decode_scd n, decode_scr, decode_scl⟩
  · exact s.fb.get_scrollDown n.toNat cx cy hcy
  · exact s.fb.get_scrollRight cx cy hcx
  · exact s.fb.get_scrollLeft cx cy

end Sys2Proof.Machine
end

section
/-! LD R,Vx and LD Vx,R (45_extended.md R200, R201): the last slot a transfer reaches, the two meanings on
the extended machine, and the registers a load leaves. -/

namespace Sys2Proof.Machine

theorem rplLast_eq_min (x : Nibble) : rplLast x = min x.toNat 7 := by
  unfold rplLast
  split <;> omega

/-- Of the eight RPL slots a transfer reaches those numbered up to `x`. -/
theorem le_rplLast_iff (x : Nibble) (k : Fin 8) : k.val ≤ rplLast x ↔ k.val ≤ x.toNat := by
  rw [rplLast_eq_min]
  omega

section
variable {s : State} (hext : s.cfg.variant = .extended)
include hext

theorem exec_storeRpl_extended (x : Nibble) :
    exec (.storeRpl x) s = .next { s.advance with
      rpl := Vector.ofFn fun i => if i.val ≤ rplLast x then s.reg (BitVec.ofNat 4 i.val) else s.rpl[i] } := by
  simp only [exec, execStoreRpl, hext]

theorem exec_loadRpl_extended (x : Nibble) :
    exec (.loadRpl x) s = .next (s.advance.setFirstRegs (s.rpl.toList.take (rplLast x + 1))) := by
  simp only [exec, execLoadRpl, hext]

end

/-- A register the load reaches holds its RPL slot. -/
theorem reg_load_rpl_of_le (s : State) {x : Nibble} {k : Fin 8} (hk : k.val ≤ x.toNat) :
    (s.advance.setFirstRegs (s.rpl.toList.take (rplLast x + 1))).reg (BitVec.ofNat 4 k.val) = s.rpl[k] := by
  have hreach : k.val < rplLast x + 1 := Nat.lt_succ_of_le ((le_rplLast_iff x k).mpr hk)
  have hidx : (BitVec.ofNat 4 k.val).toNat = k.val := by
    rw [BitVec.toNat_ofNat]
    omega
  rw [State.reg_setFirstRegs, hidx, List.getD_eq_getElem?_getD, List.getElem?_take_of_lt hreach,
    Vector.getElem?_toList, Vector.getElem?_eq_getElem k.isLt, Option.getD_some, Fin.getElem_fin]

/-- A register above `x`, or above the last RPL slot, keeps its value in the load. -/
theorem reg_load_rpl_of_lt (s : State) {x k : Nibble} (hk : x.toNat < k.toNat ∨ 7 < k.toNat) :
    (s.advance.setFirstRegs (s.rpl.toList.take (rplLast x + 1))).reg k = s.reg k := by
  have hbeyond : (s.rpl.toList.take (rplLast x + 1)).length ≤ k.toNat := by
    rw [List.length_take, rplLast_eq_min]
    omega
  rw [State.reg_setFirstRegs, List.getD_eq_default _ _ hbeyond, State.advance_reg]

/-- Settles O55: the store touches only RPL and the load only registers, each up to the smaller of `x` and the
last RPL slot. -/
theorem rplTransfersClampAtSeven : Obligations.RplTransfersClampAtSeven := by
  intro s x hext
  refine ⟨⟨_, exec_storeRpl_extended hext x, fun k hk => ?_, fun k hk => ?_, rfl, fun _ _ => rfl,
      fun _ _ => rfl, rfl⟩,
    ⟨_, exec_loadRpl_extended hext x, fun k => reg_load_rpl_of_le s, fun k => reg_load_rpl_of_lt s, rfl,
      fun _ _ => rfl, rfl⟩,
    decode_XI rfl, decode_XI rfl⟩
  · simp only [Fin.getElem_fin, Vector.getElem_ofFn, le_rplLast_iff, if_pos hk]
  · simp only [Fin.getElem_fin, Vector.getElem_ofFn, le_rplLast_iff, if_neg (Nat.not_le_of_lt hk)]

end Sys2Proof.Machine
end

section
/-! Construction (70_reset_and_hazards.md R250, R251): its three outcomes, and what a machine over a given
memory needs to be well formed. -/

namespace Sys2Proof.Machine

theorem construct_none (c : Config) : State.construct c none = .error .loadUnreadable := rfl

theorem construct_tooLarge (c : Config) {bytes : List Byte} (h : maxProgram < bytes.length) :
    State.construct c (some bytes) = .error (.loadTooLarge bytes.length) := by
  rw [State.construct, if_pos h]

theorem construct_fits (c : Config) {bytes : List Byte} (h : bytes.length ≤ maxProgram) :
    State.construct c (some bytes) =
      .ok { State.initial c 0 with mem := Mem.load [] programBase bytes } := by
  rw [State.construct, if_neg (Nat.not_lt_of_le h)]

/-- The empty low-resolution grid of construction meets its invariants, so only memory is left to check. -/
theorem wf_initial_with_mem (c : Config) (epoch : Nat) {m : Mem} (hm : m.wf = true) :
    { State.initial c epoch with mem := m }.wf = true := by
  have hfb : (State.initial c epoch).fb.wf = true := by simp [State.initial, Framebuffer.wf]
  have hres : { State.initial c epoch with mem := m }.resolutionOk = true := by
    simp [State.initial, State.resolutionOk]
  simp only [State.wf, hm, hfb, hres, Bool.and_self]

/-- The largest program ends where the address space does (R251, R60). -/
theorem wf_load_program {bytes : List Byte} (h : bytes.length ≤ maxProgram) :
    (Mem.load [] programBase bytes).wf = true :=
  Mem.load_wf [] bytes programBase rfl (Nat.add_le_add_left h programBase)

theorem read_load_program_inside {bytes : List Byte} {k : Nat} (hk : k < bytes.length) :
    (Mem.load [] programBase bytes).read (programBase + k) = bytes.getD k 0#8 := by
  rw [Mem.read_load, if_pos ⟨Nat.le_add_right _ _, Nat.add_lt_add_left hk _⟩, Nat.add_sub_cancel_left]

theorem read_load_program_outside {bytes : List Byte} {a : Nat}
    (ha : a < programBase ∨ programBase + bytes.length ≤ a) :
    (Mem.load [] programBase bytes).read a = initByte a := by
  rw [Mem.read_load, if_neg (by omega), Mem.read]

/-- Settles O13: construction is the initial state over the loaded memory, read by the law of `Mem.load`. -/
theorem constructionLoadsTheProgram : Obligations.ConstructionLoadsTheProgram := by
  refine ⟨construct_none, fun c bytes hlarge => construct_tooLarge c hlarge, fun c bytes hfits => ?_⟩
  exact ⟨_, construct_fits c hfits, rfl, fun k hk => read_load_program_inside hk,
    fun a ha => read_load_program_outside ha, wf_initial_with_mem c 0 (wf_load_program hfits)⟩

end Sys2Proof.Machine
end


section
/-! The decoder and the encoder (30_encoding.md R91 to R97): a word put together from its fields, the answer on
each group of rows, the two round trips, and the selection by fixed bits. -/

namespace Sys2Proof

/-! ### Words put together from their fields -/

theorem word_A (w : Word) : (fields w).op ++ (fields w).nnn = w :=
  (BitVec.extractLsb'_append_extractLsb'_eq_extractLsb' (start₂ := 12) (start₁ := 0) rfl).trans
    BitVec.extractLsb'_eq_self

theorem word_XI (w : Word) : (fields w).op ++ (fields w).x ++ (fields w).nn = w := by
  have hop : (fields w).op ++ (fields w).x = w.extractLsb' 8 8 :=
    BitVec.extractLsb'_append_extractLsb'_eq_extractLsb' (start₂ := 12) (start₁ := 8) rfl
  rw [hop]
  exact (BitVec.extractLsb'_append_extractLsb'_eq_extractLsb' (start₂ := 8) (start₁ := 0) rfl).trans
    BitVec.extractLsb'_eq_self

/-- The address field is its high byte and `n` (R91). -/
theorem nnn_of_fields (w : Word) : (fields w).nnn.extractLsb' 4 8 ++ (fields w).n = (fields w).nnn := by
  refine BitVec.eq_of_getLsbD_eq fun i hi => ?_
  simp only [fields, BitVec.getLsbD_append, BitVec.getLsbD_extractLsb']
  interval_cases i <;> simp

/-- The decoder's answer is what it selects on the fields, or the word's rejection (R95, R97). -/
theorem decode_eq_ok_iff {v : Variant} {w : Word} {i : Instr} :
    decode v w = .ok i ↔ decodeFields v (fields w) = some i := by
  unfold decode
  cases decodeFields v (fields w) <;> simp

theorem decode_eq_error_iff {v : Variant} {w : Word} :
    (∃ e, decode v w = .error e) ↔ decodeFields v (fields w) = none := by
  unfold decode
  cases decodeFields v (fields w) <;> simp

/-- A selection by one condition first, then by the rest. -/
theorem some_eq_of_ite {c : Prop} [Decidable c] {a i : Instr} {r : Option Instr}
    (h : (if c then some a else r) = some i) : c ∧ a = i ∨ r = some i := by
  split at h
  case isTrue hc => exact .inl ⟨hc, Option.some.inj h⟩
  case isFalse => exact .inr h

/-! ### Opcode 0 -/

/-- Opcode 0 selects SYS where no more specific row of the machine takes the address field. -/
theorem decodeOp0_of_not_sysTaken {v : Variant} {f : Fields} (h : sysTaken v f.nnn = false) :
    decodeOp0 v f = .sys f.nnn := by
  unfold decodeOp0
  cases v <;> simp_all [sysTaken]

/-- The words of opcode 0 that no other row takes are SYS's (R120). -/
theorem decode_sys {v : Variant} {nnn : Addr12} (h : sysTaken v nnn = false) :
    decode v (0x0#4 ++ nnn) = .ok (.sys nnn) := by
  rw [decode_eq_ok_iff, fields_A]
  exact congrArg some (decodeOp0_of_not_sysTaken h)

/-- Opcode 0 always selects a row of the machine, and the row's word. -/
theorem encode_decodeOp0 (v : Variant) {f : Fields} (hn : f.nnn.extractLsb' 4 8 ++ f.n = f.nnn) :
    encode (decodeOp0 v f) = 0x0#4 ++ f.nnn ∧ wellFormed v (decodeOp0 v f) = true := by
  have hscd : ∀ n : Nibble, encode (.scd n) = 0x0#4 ++ (0x0C#8 ++ n) := by decide
  unfold decodeOp0
  split_ifs with hcls hret hbase hscr hscl hexit hlow hhigh hscd'
  · rw [hcls]; exact ⟨rfl, by cases v <;> rfl⟩
  · rw [hret]; exact ⟨rfl, by cases v <;> rfl⟩
  · exact ⟨rfl, by simp [wellFormed, sysTaken, *]⟩
  all_goals have hext : v = .extended := by cases v <;> simp_all
  · rw [hscr, hext]; exact ⟨rfl, rfl⟩
  · rw [hscl, hext]; exact ⟨rfl, rfl⟩
  · rw [hexit, hext]; exact ⟨rfl, rfl⟩
  · rw [hlow, hext]; exact ⟨rfl, rfl⟩
  · rw [hhigh, hext]; exact ⟨rfl, rfl⟩
  · rw [hscd, ← hscd', hn, hext]; exact ⟨rfl, rfl⟩
  · exact ⟨rfl, by simp [wellFormed, sysTaken, *]⟩

/-! ### Opcodes 8, E and F -/

theorem encode_of_decodeOp8 {f : Fields} {i : Instr} (h : decodeOp8 f = some i) (v : Variant) :
    encode i = 0x8#4 ++ f.x ++ f.y ++ f.n ∧ wellFormed v i = true := by
  unfold decodeOp8 at h
  split_ifs at h with hn hn hn hn hn hn hn hn hn <;>
    (cases h; rw [hn]; exact ⟨rfl, Bool.or_true _⟩)

theorem encode_of_decodeOpE {f : Fields} {i : Instr} (h : decodeOpE f = some i) (v : Variant) :
    encode i = 0xE#4 ++ f.x ++ f.nn ∧ wellFormed v i = true := by
  unfold decodeOpE at h
  split_ifs at h with hnn hnn <;> (cases h; rw [hnn]; exact ⟨rfl, Bool.or_true _⟩)

theorem encode_of_decodeOpF {v : Variant} {f : Fields} {i : Instr} (h : decodeOpF v f = some i) :
    encode i = 0xF#4 ++ f.x ++ f.nn ∧ wellFormed v i = true := by
  unfold decodeOpF at h
  iterate 9
    obtain ⟨hnn, rfl⟩ | h := some_eq_of_ite h
    · rw [hnn]; exact ⟨rfl, Bool.or_true _⟩
  cases v
  · cases h
  iterate 3
    obtain ⟨hnn, rfl⟩ | h := some_eq_of_ite h
    · rw [hnn]; exact ⟨rfl, rfl⟩
  cases h

/-! ### The round trips -/

/-- The fields an arm of the selection tests and the operands it carries make up the word again. A row of both
machines is well formed whatever the variant (`Bool.or_true`). -/
theorem encode_of_decodeFields {v : Variant} {f : Fields} {w : Word} {i : Instr} (hA : f.op ++ f.nnn = w)
    (hXI : f.op ++ f.x ++ f.nn = w) (hXYN : f.op ++ f.x ++ f.y ++ f.n = w)
    (hn : f.nnn.extractLsb' 4 8 ++ f.n = f.nnn) (h : decodeFields v f = some i) :
    encode i = w ∧ wellFormed v i = true := by
  have hop {k : Nat} (hk : f.op.toNat = k) : f.op = BitVec.ofNat 4 k := by
    rw [← hk, BitVec.ofNat_toNat, BitVec.setWidth_eq]
  unfold decodeFields at h
  split at h
  case h_1 hk => cases h; rw [← hA, hop hk]; exact encode_decodeOp0 v hn
  case h_2 hk | h_3 hk | h_11 hk | h_12 hk => cases h; rw [← hA, hop hk]; exact ⟨rfl, Bool.or_true _⟩
  case h_4 hk | h_5 hk | h_7 hk | h_8 hk | h_13 hk => cases h; rw [← hXI, hop hk]; exact ⟨rfl, Bool.or_true _⟩
  case h_6 hk | h_10 hk =>
    split_ifs at h with hn0
    cases h; rw [← hXYN, hop hk, hn0]; exact ⟨rfl, Bool.or_true _⟩
  case h_9 hk => rw [← hXYN, hop hk]; exact encode_of_decodeOp8 h v
  case h_14 hk =>
    rw [← hXYN, hop hk]
    split_ifs at h with hn0
    · cases h; rw [hn0.2, hn0.1]; exact ⟨rfl, rfl⟩
    · cases h; exact ⟨rfl, by cases v <;> simp_all [wellFormed]⟩
  case h_15 hk => rw [← hXI, hop hk]; exact encode_of_decodeOpE h v
  case h_16 =>
    have hk : f.op.toNat = 15 := by
      have hlt : f.op.toNat < 16 := f.op.isLt
      simp only [imp_false] at *
      omega
    rw [← hXI, hop hk]; exact encode_of_decodeOpF h

/-- A word that decodes is the word of its instruction, which is one of the machine's. -/
theorem encode_of_decode {v : Variant} {w : Word} {i : Instr} (h : decode v w = .ok i) :
    encode i = w ∧ wellFormed v i = true :=
  encode_of_decodeFields (word_A w) (word_XI w) (word_of_fields w).symm (nnn_of_fields w)
    (decode_eq_ok_iff.mp h)

/-- The ten instructions of the extended machine alone are well formed on no other. -/
theorem variant_of_extendedOnly {v : Variant} {i : Instr} (h : wellFormed v i = true)
    (hi : i.extendedOnly = true) : v = .extended := by
  cases v
  case base => cases i <;> simp_all [wellFormed, Instr.extendedOnly]
  case extended => rfl

/-- The word of a well-formed instruction decodes to it: its format puts the fields where the selection reads them. -/
theorem decode_encode {v : Variant} {i : Instr} (h : wellFormed v i = true) : decode v (encode i) = .ok i := by
  cases i with
  | scd n => rw [variant_of_extendedOnly h rfl]; exact decode_scd n
  | cls | ret => cases v <;> rfl
  | scr | scl | exitReq | low | high => rw [variant_of_extendedOnly h rfl]; rfl
  | sys nnn => exact decode_sys (by simpa [wellFormed] using h)
  | jp nnn | call nnn | ldI nnn | jpV0 nnn => exact decode_of_decodeFields (by rw [encode, fields_A]; rfl)
  | seImm x nn | sneImm x nn | ldImm x nn | addImm x nn | rnd x nn => exact decode_XI rfl
  | seReg x y | ldReg x y | orReg x y | andReg x y | xorReg x y | addReg x y | subReg x y | shr x y
  | subn x y | shl x y | sneReg x y => exact decode_XYN rfl
  | drw16 x y => rw [variant_of_extendedOnly h rfl]; exact decode_XYN rfl
  | drw x y n =>
    refine decode_XYN (if_neg ?_)
    cases v <;> simp_all [wellFormed]
  | skp x | sknp x | ldVxDt x | ldVxK x | ldDtVx x | ldStVx x | addI x | ldF x | ldB x | storeRegs x
  | loadRegs x => exact decode_XI rfl
  | ldHf x | storeRpl x | loadRpl x => rw [variant_of_extendedOnly h rfl]; exact decode_XI rfl

/-- Settles O2: each row's word has the fields the row selects on, and a well-formed SYS or DRW none that a
more specific row takes. -/
theorem decodeInvertsEncode : Obligations.DecodeInvertsEncode :=
  fun _ _ => decode_encode

/-- Settles O3: the fixed fields of the selected row and the operands it carries make up the word again. -/
theorem encodeInvertsDecode : Obligations.EncodeInvertsDecode :=
  fun _ _ _ => encode_of_decode

/-! ### The words no row matches (R97) -/

theorem ite_some_eq_none_iff {c : Prop} [Decidable c] {i : Instr} {r : Option Instr} :
    (if c then some i else r) = none ↔ ¬c ∧ r = none := by
  split <;> simp [*]

theorem decodeOp8_eq_none_iff (f : Fields) :
    decodeOp8 f = none ↔ f.n ∈ [0x8#4, 0x9#4, 0xA#4, 0xB#4, 0xC#4, 0xD#4, 0xF#4] := by
  simp only [decodeOp8, ite_some_eq_none_iff]
  generalize f.n = n
  revert n
  decide

theorem decodeOpE_eq_none_iff (f : Fields) : decodeOpE f = none ↔ f.nn ∉ [0x9E#8, 0xA1#8] := by
  simp [decodeOpE, ite_some_eq_none_iff]

theorem decodeOpF_base_eq_none_iff (f : Fields) :
    decodeOpF .base f = none ↔
      f.nn ∉ [0x07#8, 0x0A#8, 0x15#8, 0x18#8, 0x1E#8, 0x29#8, 0x33#8, 0x55#8, 0x65#8] := by
  simp [decodeOpF, ite_some_eq_none_iff]

theorem decodeOpF_extended_eq_none_iff (f : Fields) :
    decodeOpF .extended f = none ↔
      f.nn ∉ [0x07#8, 0x0A#8, 0x15#8, 0x18#8, 0x1E#8, 0x29#8, 0x30#8, 0x33#8, 0x55#8, 0x65#8,
          0x75#8, 0x85#8] := by
  simp only [decodeOpF, ite_some_eq_none_iff, reduceCtorEq, if_false, List.mem_cons, List.not_mem_nil, or_false,
    not_or, and_true]
  tauto

/-- The six patterns of R97, on the fields of a word. -/
def UnknownFields (v : Variant) (f : Fields) : Prop :=
  (f.op = 0x5#4 ∧ f.n ≠ 0#4) ∨
  (f.op = 0x8#4 ∧ f.n ∈ [0x8#4, 0x9#4, 0xA#4, 0xB#4, 0xC#4, 0xD#4, 0xF#4]) ∨
  (f.op = 0x9#4 ∧ f.n ≠ 0#4) ∨
  (f.op = 0xE#4 ∧ f.nn ∉ [0x9E#8, 0xA1#8]) ∨
  (v = .base ∧ f.op = 0xF#4 ∧
    f.nn ∉ [0x07#8, 0x0A#8, 0x15#8, 0x18#8, 0x1E#8, 0x29#8, 0x33#8, 0x55#8, 0x65#8]) ∨
  (v = .extended ∧ f.op = 0xF#4 ∧
    f.nn ∉ [0x07#8, 0x0A#8, 0x15#8, 0x18#8, 0x1E#8, 0x29#8, 0x30#8, 0x33#8, 0x55#8, 0x65#8, 0x75#8, 0x85#8])

/-- The selection fails in opcodes 5, 8, 9, E and F only, each on its own pattern. -/
theorem decodeFields_eq_none_iff (v : Variant) (f : Fields) : decodeFields v f = none ↔ UnknownFields v f := by
  have hop (k : Nibble) : f.op = k ↔ f.op.toNat = k.toNat := BitVec.toNat_inj.symm
  unfold decodeFields UnknownFields
  simp only [← decodeOp8_eq_none_iff, ← decodeOpE_eq_none_iff, ← decodeOpF_base_eq_none_iff,
    ← decodeOpF_extended_eq_none_iff]
  split
  case h_14 hk => split <;> simp [hop, hk]
  case h_16 =>
    have hk : f.op.toNat = 15 := by
      have hlt : f.op.toNat < 16 := f.op.isLt
      simp only [imp_false] at *
      omega
    cases v <;> simp [hop, hk]
  all_goals
    rename_i hk
    simp [hop, hk]

/-! ### The word of a row (R96), from its fixed bits -/

/-- A mask that fixes a whole field leaves that field as it is. -/
theorem extractLsb'_and_mask {w m : Word} {start len : Nat} (h : m.extractLsb' start len = BitVec.allOnes len) :
    (w &&& m).extractLsb' start len = w.extractLsb' start len := by
  rw [BitVec.extractLsb'_and, h, BitVec.and_allOnes]

section
variable {w : Word} {op n : Nibble} {nn : Byte}

theorem op_of_mask (h : w &&& 0xF000#16 = op ++ 0#12) : (fields w).op = op := by
  have hf := congrArg fields h
  rw [fields_A] at hf
  exact (extractLsb'_and_mask rfl).symm.trans (congrArg Fields.op hf)

theorem word_of_mask_A (h : w &&& 0xF000#16 = op ++ 0#12) : op ++ (fields w).nnn = w := by
  rw [← op_of_mask h, word_A]

theorem word_of_mask_XI (h : w &&& 0xF000#16 = op ++ 0#12) : op ++ (fields w).x ++ (fields w).nn = w := by
  rw [← op_of_mask h, word_XI]

theorem word_of_mask_XYN (h : w &&& 0xF000#16 = op ++ 0#12) :
    op ++ (fields w).x ++ (fields w).y ++ (fields w).n = w := by
  rw [← op_of_mask h, ← word_of_fields]

theorem word_of_mask_XY (h : w &&& 0xF00F#16 = op ++ 0#4 ++ 0#4 ++ n) :
    op ++ (fields w).x ++ (fields w).y ++ n = w := by
  have hf := congrArg fields h
  rw [fields_XYN] at hf
  have hop : (fields w).op = op := (extractLsb'_and_mask rfl).symm.trans (congrArg Fields.op hf)
  have hn : (fields w).n = n := (extractLsb'_and_mask rfl).symm.trans (congrArg Fields.n hf)
  rw [← hop, ← hn, ← word_of_fields]

theorem word_of_mask_X (h : w &&& 0xF0FF#16 = op ++ 0#4 ++ nn) : op ++ (fields w).x ++ nn = w := by
  have hf := congrArg fields h
  rw [fields_XI] at hf
  have hop : (fields w).op = op := (extractLsb'_and_mask rfl).symm.trans (congrArg Fields.op hf)
  have hnn : (fields w).nn = nn := (extractLsb'_and_mask rfl).symm.trans (congrArg Fields.nn hf)
  rw [← hop, ← hnn, word_XI]

theorem word_of_mask_N {c : Addr12} (h : w &&& 0xFFF0#16 = c ++ 0#4) : c ++ (fields w).n = w := by
  have hc : (w &&& 0xFFF0#16).extractLsb' 4 12 = c := by
    rw [h]
    ext i hi
    simp only [BitVec.getElem_extractLsb', BitVec.getLsbD_append]
    simp [BitVec.getLsbD_eq_getElem hi]
  rw [← hc, extractLsb'_and_mask rfl]
  exact (BitVec.extractLsb'_append_extractLsb'_eq_extractLsb' (start₂ := 4) (start₁ := 0) rfl).trans
    BitVec.extractLsb'_eq_self

theorem word_of_mask_all {c : Word} (h : w &&& 0xFFFF#16 = c) : c = w :=
  h.symm.trans (BitVec.and_allOnes)

end

/-- A word that carries a row's fixed bits is the word of one of the row's instructions. -/
theorem exists_instr_of_row {w : Word} :
    ∀ r ∈ opcodeMap, w &&& r.mask = r.value → ∃ i : Instr, i.row = r ∧ encode i = w := by
  simp only [opcodeMap, List.forall_mem_append, List.forall_mem_cons, List.not_mem_nil, false_imp_iff,
    implies_true, and_true]
  split_ands <;> intro h
  · exact ⟨.scd _, rfl, word_of_mask_N h⟩
  · exact ⟨.cls, rfl, word_of_mask_all h⟩
  · exact ⟨.ret, rfl, word_of_mask_all h⟩
  · exact ⟨.scr, rfl, word_of_mask_all h⟩
  · exact ⟨.scl, rfl, word_of_mask_all h⟩
  · exact ⟨.exitReq, rfl, word_of_mask_all h⟩
  · exact ⟨.low, rfl, word_of_mask_all h⟩
  · exact ⟨.high, rfl, word_of_mask_all h⟩
  · exact ⟨.sys _, rfl, word_of_mask_A h⟩
  · exact ⟨.jp _, rfl, word_of_mask_A h⟩
  · exact ⟨.call _, rfl, word_of_mask_A h⟩
  · exact ⟨.seImm _ _, rfl, word_of_mask_XI h⟩
  · exact ⟨.sneImm _ _, rfl, word_of_mask_XI h⟩
  · exact ⟨.seReg _ _, rfl, word_of_mask_XY h⟩
  · exact ⟨.ldImm _ _, rfl, word_of_mask_XI h⟩
  · exact ⟨.addImm _ _, rfl, word_of_mask_XI h⟩
  · exact ⟨.ldReg _ _, rfl, word_of_mask_XY h⟩
  · exact ⟨.orReg _ _, rfl, word_of_mask_XY h⟩
  · exact ⟨.andReg _ _, rfl, word_of_mask_XY h⟩
  · exact ⟨.xorReg _ _, rfl, word_of_mask_XY h⟩
  · exact ⟨.addReg _ _, rfl, word_of_mask_XY h⟩
  · exact ⟨.subReg _ _, rfl, word_of_mask_XY h⟩
  · exact ⟨.shr _ _, rfl, word_of_mask_XY h⟩
  · exact ⟨.subn _ _, rfl, word_of_mask_XY h⟩
  · exact ⟨.shl _ _, rfl, word_of_mask_XY h⟩
  · exact ⟨.sneReg _ _, rfl, word_of_mask_XY h⟩
  · exact ⟨.ldI _, rfl, word_of_mask_A h⟩
  · exact ⟨.jpV0 _, rfl, word_of_mask_A h⟩
  · exact ⟨.rnd _ _, rfl, word_of_mask_XI h⟩
  · exact ⟨.drw16 _ _, rfl, word_of_mask_XY h⟩
  · exact ⟨.drw _ _ _, rfl, word_of_mask_XYN h⟩
  · exact ⟨.skp _, rfl, word_of_mask_X h⟩
  · exact ⟨.sknp _, rfl, word_of_mask_X h⟩
  · exact ⟨.ldVxDt _, rfl, word_of_mask_X h⟩
  · exact ⟨.ldVxK _, rfl, word_of_mask_X h⟩
  · exact ⟨.ldDtVx _, rfl, word_of_mask_X h⟩
  · exact ⟨.ldStVx _, rfl, word_of_mask_X h⟩
  · exact ⟨.addI _, rfl, word_of_mask_X h⟩
  · exact ⟨.ldF _, rfl, word_of_mask_X h⟩
  · exact ⟨.ldHf _, rfl, word_of_mask_X h⟩
  · exact ⟨.ldB _, rfl, word_of_mask_X h⟩
  · exact ⟨.storeRegs _, rfl, word_of_mask_X h⟩
  · exact ⟨.loadRegs _, rfl, word_of_mask_X h⟩
  · exact ⟨.storeRpl _, rfl, word_of_mask_X h⟩
  · exact ⟨.loadRpl _, rfl, word_of_mask_X h⟩

open Laws.TableRow in
/-- Every instruction's word carries the fixed bits of its row, a row of the map. -/
theorem tableRow : ∀ i : Instr, Laws.TableRow.Statement i
  | .scd a => scd a | .cls => cls | .ret => ret | .scr => scr | .scl => scl | .exitReq => exitReq
  | .low => low | .high => high | .sys a => sys a | .jp a => jp a | .call a => call a
  | .seImm a b => seImm a b | .sneImm a b => sneImm a b | .seReg a b => seReg a b | .ldImm a b => ldImm a b
  | .addImm a b => addImm a b | .ldReg a b => ldReg a b | .orReg a b => orReg a b
  | .andReg a b => andReg a b | .xorReg a b => xorReg a b | .addReg a b => addReg a b
  | .subReg a b => subReg a b | .shr a b => shr a b | .subn a b => subn a b | .shl a b => shl a b
  | .sneReg a b => sneReg a b | .ldI a => ldI a | .jpV0 a => jpV0 a | .rnd a b => rnd a b
  | .drw16 a b => drw16 a b | .drw a b c => drw a b c | .skp a => skp a | .sknp a => sknp a
  | .ldVxDt a => ldVxDt a | .ldVxK a => ldVxK a | .ldDtVx a => ldDtVx a | .ldStVx a => ldStVx a
  | .addI a => addI a | .ldF a => ldF a | .ldHf a => ldHf a | .ldB a => ldB a | .storeRegs a => storeRegs a
  | .loadRegs a => loadRegs a | .storeRpl a => storeRpl a | .loadRpl a => loadRpl a

/-! ### The selection (R95) -/

theorem OpRow.matchesWord_iff (r : OpRow) (w : Word) : r.matchesWord w = true ↔ w &&& r.mask = r.value :=
  beq_iff_eq

theorem row_mem_opcodeMap (i : Instr) : i.row ∈ opcodeMap := (tableRow i).2

theorem row_matchesWord_encode (i : Instr) : i.row.matchesWord (encode i) = true :=
  (i.row.matchesWord_iff _).mpr (tableRow i).1

theorem row_extended (i : Instr) : i.row.extended = i.extendedOnly := by
  cases i <;> rfl

theorem row_admits_of_wellFormed {v : Variant} {i : Instr} (h : wellFormed v i = true) :
    i.row.admits v = true := by
  unfold OpRow.admits
  rw [row_extended]
  by_cases hi : i.extendedOnly = true
  · rw [variant_of_extendedOnly h hi]; rfl
  · simp [hi]

/-- Where the row admits the machine, only SYS and DRW can have a word that a more specific row takes. -/
theorem sys_or_drw_of_not_wellFormed {v : Variant} {i : Instr} (hadm : i.row.admits v = true)
    (h : ¬wellFormed v i = true) : (∃ nnn, i = .sys nnn) ∨ ∃ x y n, i = .drw x y n := by
  unfold wellFormed at h
  split at h
  case h_1 nnn => exact .inl ⟨nnn, rfl⟩
  case h_2 x y n => exact .inr ⟨x, y, n, rfl⟩
  case h_3 =>
    unfold OpRow.admits at hadm
    rw [row_extended] at hadm
    exact absurd hadm h

/-- The word of an instruction whose row admits the machine is not rejected. -/
theorem exists_decode_of_admits {v : Variant} {i : Instr} (h : i.row.admits v = true) :
    ∃ j, decode v (encode i) = .ok j := by
  by_cases hw : wellFormed v i = true
  · exact ⟨i, decode_encode hw⟩
  · obtain ⟨nnn, rfl⟩ | ⟨x, y, n, rfl⟩ := sys_or_drw_of_not_wellFormed h hw
    · exact ⟨_, decode_of_decodeFields (by rw [encode, fields_A]; rfl)⟩
    · by_cases hn : v = .extended ∧ n = 0#4
      · exact ⟨_, decode_XYN (if_pos hn)⟩
      · exact ⟨_, decode_XYN (if_neg hn)⟩

/-- Of two rows that one word can match the upper one fixes more bits. -/
theorem opcodeMap_pairwise : opcodeMap.Pairwise fun r r' =>
    r.value &&& r'.mask = r'.value &&& r.mask → r'.fixedBits < r.fixedBits := by
  decide

theorem fixedBits_of_opcode_mask {r : OpRow} (h : r.mask = 0xF000#16) : r.fixedBits = 4 := by
  rw [OpRow.fixedBits, h]
  decide

theorem four_le_fixedBits : ∀ r ∈ opcodeMap, 4 ≤ r.fixedBits := by
  decide

theorem values_agree_of_matchesWord {r r' : OpRow} {w : Word} (h : r.matchesWord w = true)
    (h' : r'.matchesWord w = true) : r.value &&& r'.mask = r'.value &&& r.mask := by
  rw [OpRow.matchesWord_iff] at h h'
  rw [← h, ← h', BitVec.and_assoc, BitVec.and_assoc, BitVec.and_comm r.mask]

theorem selectRow_spec {v : Variant} {w : Word} {r : OpRow} (h : selectRow v w = some r) :
    r ∈ opcodeMap ∧ r.admits v = true ∧ r.matchesWord w = true := by
  unfold selectRow at h
  have hboth := List.find?_some h
  exact ⟨List.mem_of_find?_eq_some h, Bool.and_eq_true_iff.mp hboth⟩

/-- The first row of the map that admits and matches fixes more bits than any other that does. -/
theorem fixedBits_lt_of_selectRow {v : Variant} {w : Word} {r r' : OpRow} (h : selectRow v w = some r)
    (hr' : r' ∈ opcodeMap) (hadm : r'.admits v = true) (hmatch : r'.matchesWord w = true) (hne : r' ≠ r) :
    r'.fixedBits < r.fixedBits := by
  obtain ⟨hr, above, below, hmap, habove⟩ := List.find?_eq_some_iff_append.mp h
  have hpair := opcodeMap_pairwise
  rw [hmap] at hpair hr'
  rcases List.mem_append.mp hr' with hup | hdown
  · have := habove r' hup
    simp [hadm, hmatch] at this
  · rcases List.mem_cons.mp hdown with rfl | hdown
    · exact absurd rfl hne
    · have hlt := (List.pairwise_cons.mp (List.pairwise_append.mp hpair).2.1).1 r' hdown
      exact hlt (values_agree_of_matchesWord (Bool.and_eq_true_iff.mp hr).2 hmatch)

/-- The decoder's row is the first that admits and matches: an upper one would be the row of another well-formed
instruction of the same word, or SYS's or DRW's, and these fix the fewest bits. -/
theorem selectRow_eq_of_decode {v : Variant} {w : Word} {i : Instr} (h : decode v w = .ok i) :
    selectRow v w = some i.row := by
  obtain ⟨rfl, hw⟩ := encode_of_decode h
  have hadm := row_admits_of_wellFormed hw
  have hmatch := row_matchesWord_encode i
  obtain ⟨r, hr⟩ : ∃ r, selectRow v (encode i) = some r := by
    refine Option.isSome_iff_exists.mp (List.find?_isSome.mpr ⟨i.row, row_mem_opcodeMap i, ?_⟩)
    rw [hadm, hmatch, Bool.and_self]
  rw [hr]
  by_contra hne
  have hlt := fixedBits_lt_of_selectRow hr (row_mem_opcodeMap i) hadm hmatch fun he => hne (by rw [he])
  obtain ⟨hrmem, hradm, hrmatch⟩ := selectRow_spec hr
  obtain ⟨j, rfl, hj⟩ := exists_instr_of_row r hrmem ((r.matchesWord_iff _).mp hrmatch)
  by_cases hjw : wellFormed v j = true
  · have hij := decode_encode hjw
    rw [hj, h] at hij
    cases hij
    exact hne rfl
  · have hfour : j.row.fixedBits = 4 := by
      obtain ⟨nnn, rfl⟩ | ⟨x, y, n, rfl⟩ := sys_or_drw_of_not_wellFormed hradm hjw <;>
        exact fixedBits_of_opcode_mask rfl
    have := four_le_fixedBits _ (row_mem_opcodeMap i)
    omega

/-- No row of the machine matches a rejected word: the row's own instruction would be decoded. -/
theorem not_matchesWord_of_decode_error {v : Variant} {w : Word} {e : Reject} (h : decode v w = .error e)
    {r : OpRow} (hr : r ∈ opcodeMap) (hadm : r.admits v = true) : r.matchesWord w = false := by
  by_contra hmatch
  rw [Bool.not_eq_false, OpRow.matchesWord_iff] at hmatch
  obtain ⟨i, rfl, rfl⟩ := exists_instr_of_row r hr hmatch
  obtain ⟨j, hj⟩ := exists_decode_of_admits hadm
  rw [h] at hj
  cases hj

/-- Settles O4: the decoded instruction's row is the first that admits and matches, and in the map's order an
upper row fixes more bits than a lower one that the same word matches. -/
theorem selectionTakesMostFixedBits : Obligations.SelectionTakesMostFixedBits := by
  intro v w
  refine ⟨fun i h => ?_, fun e h => ⟨fun r hr hadm => not_matchesWord_of_decode_error h hr hadm, ?_⟩⟩
  · have hsel := selectRow_eq_of_decode h
    obtain ⟨-, hadm, hmatch⟩ := selectRow_spec hsel
    exact ⟨row_mem_opcodeMap i, hadm, hmatch,
      fun r hr hradm hrmatch => fixedBits_lt_of_selectRow hsel hr hradm hrmatch, hsel⟩
  · refine List.find?_eq_none.mpr fun r hr hboth => ?_
    obtain ⟨hadm, hmatch⟩ := Bool.and_eq_true_iff.mp hboth
    rw [not_matchesWord_of_decode_error h hr hadm] at hmatch
    cases hmatch

/-- Settles O1: the selection computes on each word; only Dxyn's looks at the machine. -/
theorem sampleWordsDecode : Obligations.SampleWordsDecode := by
  refine ⟨fun _ => rfl, fun _ => rfl, fun _ => rfl, fun _ => rfl, fun _ => rfl, fun _ => rfl, fun _ => rfl,
    fun _ => rfl, fun v => ?_, fun _ => rfl, fun _ => rfl, rfl, rfl, rfl, rfl, rfl, rfl⟩
  cases v <;> rfl

end Sys2Proof

namespace Sys2Proof.Machine

/-- Every instruction has a text: its mnemonic is not empty. -/
theorem instrText_ne_empty (i : Instr) : instrText i ≠ "" := by
  cases i <;> simp [instrText, twoText]

theorem disassemble_encode {i : Instr} (h : wellFormed .extended i = true) : disassemble (encode i) = instrText i := by
  rw [disassemble, decode_encode h]

theorem disassemble_eq_empty_iff (w : Word) : disassemble w = "" ↔ ∃ e, decode .extended w = .error e := by
  unfold disassemble
  cases h : decode .extended w with
  | ok i => simpa using instrText_ne_empty i
  | error e => simp

/-- Settles O6: every instruction has a text, so the empty text is the rejection's; the rest is the text of the
instruction whose word is named. -/
theorem disassemblerTextIsEmptyOnUnknownWords : Obligations.DisassemblerTextIsEmptyOnUnknownWords := by
  refine ⟨disassemble_eq_empty_iff, fun x y => ?_, disassemble_encode (i := .exitReq) rfl, fun nnn h => ?_⟩
  · rw [show 0xD#4 ++ x ++ y ++ 0x0#4 = encode (.drw16 x y) from rfl, disassemble_encode rfl, instrText,
      twoText, show "DRW" ++ " " = "DRW " from rfl]
  · exact disassemble_encode (i := .sys nnn) (by rw [wellFormed, h]; rfl)

end Sys2Proof.Machine
end


section
/-! The driver's requests (00_scope.md R9, R93, R232, R254): what a step does with an instruction request, the
fetch, the tick, the warm reset, and the construction state. -/

namespace Sys2Proof.Machine

/-! ### The instruction request -/

section
variable {s : State} {k : Keys} {r : Byte} (hreq : s.nextRequest = .instruction k r)
include hreq

theorem step_of_halted (hhalt : s.halted = true) : step s = .next (s.beginStep.withInputs k r) := by
  rw [step_of_instruction s k r hreq, State.instructionStep]
  exact if_pos hhalt

/-- The fetch reads nothing that the request brings: it is that of the state before the step. -/
theorem step_of_not_halted (hhalt : s.halted = false) :
    step s = orRaise s.fetch (s.beginStep.withInputs k r).execute := by
  rw [step_of_instruction s k r hreq, State.instructionStep, if_neg (by simp [hhalt])]
  rfl

theorem step_of_fetch {w : Word} (hhalt : s.halted = false) (hfetch : s.fetch = .ok w) :
    step s = (s.beginStep.withInputs k r).execute w := by
  rw [step_of_not_halted hreq hhalt, hfetch, orRaise_ok]

end

theorem execute_of_decode {s : State} {w : Word} {i : Instr} (h : decode s.cfg.variant w = .ok i) :
    s.execute w = exec i s := by
  rw [State.execute, h]

theorem execute_of_reject {s : State} {w : Word} {e : Reject} (h : decode s.cfg.variant w = .error e) :
    s.execute w = .next (s.unknownNotice w) := by
  rw [State.execute, h]

/-- Settles O7: the request's state is the state before with the driver's fields renewed, and the fetched word
is the instruction that runs on it. -/
theorem stepRunsDecodedInstruction : Obligations.StepRunsDecodedInstruction := by
  intro s w i k r hhalt hfetch hdec hreq
  rw [step_of_fetch hreq hhalt hfetch]
  exact execute_of_decode hdec

/-- Settles O8: a halted machine's instruction step is the latching alone. -/
theorem haltedMachineRunsNothing : Obligations.HaltedMachineRunsNothing := by
  intro s k r hhalt hreq
  exact step_of_halted hreq hhalt

/-- Settles O5: the rejected words are those on whose fields the selection fails, and a step on one is its
notice. -/
theorem unknownWordsOnlyGiveANotice : Obligations.UnknownWordsOnlyGiveANotice := by
  refine ⟨fun v w => decode_eq_error_iff.trans (decodeFields_eq_none_iff v (fields w)), ?_⟩
  intro s k r w e hreq hhalt hfetch hdec
  rw [step_of_fetch hreq hhalt hfetch]
  exact execute_of_reject hdec

/-! ### The fetch -/

theorem fetch_ok {s : State} (h : s.inReach s.pc.toNat 2) :
    s.fetch = .ok (s.mem.read (s.pc.toNat % memSize) ++ s.mem.read ((s.pc.toNat + 1) % memSize)) := by
  obtain ⟨hhi, hlo⟩ := s.inReach_split _ _ h
  simp only [State.fetch, State.readByte_ok s _ hhi, State.readByte_ok s _ hlo]

/-- A fetch that reaches above 0xFFF raises at the first of its two addresses that does (R64, R226). -/
theorem fetch_error {s : State} (hp : s.cfg.addrPolicy = .fault) (h : memSize ≤ s.pc.toNat + 1) :
    s.fetch = .error (.addressRange (max s.pc.toNat memSize) s.pc) := by
  by_cases hpc : memSize ≤ s.pc.toNat
  · simp only [State.fetch, State.readByte_error s _ hpc hp, Nat.max_eq_left hpc]
  · have hhi : s.inReach s.pc.toNat 1 := .inr (.inl (by omega))
    have hmax : max s.pc.toNat memSize = s.pc.toNat + 1 := by omega
    simp only [State.fetch, State.readByte_ok s _ hhi, State.readByte_error s _ h hp, hmax]

/-- Settles O9: the two byte reads of a fetch, in reach and above 0xFFF. -/
theorem fetchReadsTwoBytesHighFirst : Obligations.FetchReadsTwoBytesHighFirst := by
  refine ⟨fun s h => fetch_ok (.inr (h.imp_left id)), fun s k r hreq hhalt hp hpc => ?_⟩
  rw [step_of_not_halted hreq hhalt, fetch_error hp hpc, orRaise_error]

/-! ### The tick -/

theorem toNat_countDown (b : Byte) : (if b = 0#8 then 0#8 else b - 1#8).toNat = b.toNat - 1 := by
  split <;> bv_omega

/-- Settles O10: a tick is the count down of both timers; the pulse compares ST with 1. -/
theorem tickCountsTimersDown : Obligations.TickCountsTimersDown := by
  intro s hreq
  have hst : (s.st == 1#8) = true ↔ s.st.toNat = 1 := by
    rw [beq_iff_eq, ← BitVec.toNat_inj]
    rfl
  exact ⟨_, step_of_tick s hreq, toNat_countDown s.dt, toNat_countDown s.st, hst, rfl, rfl, rfl⟩

/-! ### The warm reset and construction -/

section
variable {c : Config} (hzero : c.regReset = .zero) (epoch : Nat)
include hzero

theorem reg_initial (x : Nibble) : (State.initial c epoch).reg x = 0#8 := by
  simp [State.initial, State.reg, initReg, hzero]

theorem idx_initial : (State.initial c epoch).idx = 0#16 := by
  simp [State.initial, initIndex, hzero]

theorem stk_initial (k : Fin 16) : (State.initial c epoch).stk[k] = 0#16 := by
  simp [State.initial, initSlot, hzero]

end

/-- The key levels are the driver's, so a warm reset keeps them (log 12). -/
theorem State.warmReset_keys (s : State) : s.warmReset.keys = s.keys := rfl

/-- Settles O11: the warm reset is the construction state but for what it keeps. -/
theorem warmResetKeepsMemoryAndRpl : Obligations.WarmResetKeepsMemoryAndRpl := by
  intro s hreq
  exact ⟨_, step_of_reset s hreq, rfl, rfl, rfl, rfl, rfl, rfl, rfl, rfl, rfl, rfl, rfl, rfl,
    fun cx cy => Framebuffer.get_replace 64 32 cx cy,
    State.warmReset_keys s.beginStep, rfl,
    fun hzero => ⟨reg_initial hzero _, idx_initial hzero _, stk_initial hzero _⟩⟩

/-- The construction contents of R61: the 80 font bytes from 0x050 on, zeros elsewhere. -/
theorem initByte_eq (a : Nat) :
    initByte a = if 0x050 ≤ a ∧ a ≤ 0x09F then fontBytes.getD (a - 0x050) 0#8 else 0#8 := by
  have hlen : fontBytes.length = 80 := rfl
  unfold initByte fontBase
  split_ifs with hlow hfont hfont
  · rfl
  · exact List.getD_eq_default _ _ (by omega)
  · omega
  · rfl

/-- Settles O12: the fields of `State.initial` under the default parameters, and its well-formedness. -/
theorem resetStateIsTheConstructionState : Obligations.ResetStateIsTheConstructionState := by
  refine ⟨rfl, rfl, rfl, rfl, rfl, rfl, rfl, rfl, rfl, rfl, reg_initial rfl 0, stk_initial rfl 0, fun k => ?_,
    fun _ _ => rfl, rfl, initByte_eq, wf_initial_with_mem defaultConfig 0 rfl, rfl⟩
  exact Vector.getElem_replicate k.isLt

end Sys2Proof.Machine
end


section
/-! Which faults an instruction can raise (60_exceptions.md R220, R224, R226), and that nothing is refused
(00_scope.md R10). -/

namespace Sys2Proof.Machine

/-- The table of R220: which instruction can raise the fault, under which policy and condition, and what the
fault records. -/
def FaultListed (i : Instr) (s : State) : Fault → Prop
  | .stackOverflow v a => (∃ nnn, i = .call nnn) ∧ s.sp.val = 16 ∧ s.cfg.stackPolicy = .fault ∧
      v = s.pc + 2#16 ∧ a = s.pc
  | .stackUnderflow a => i = .ret ∧ s.sp.val = 0 ∧ s.cfg.stackPolicy = .fault ∧ a = s.pc
  | .addressRange b a =>
      ((∃ x y n, i = .drw x y n) ∨ (∃ x y, i = .drw16 x y) ∨ (∃ x, i = .ldB x) ∨
        (∃ x, i = .storeRegs x) ∨ ∃ x, i = .loadRegs x) ∧
      s.cfg.addrPolicy = .fault ∧ memSize ≤ b ∧ s.idx.toNat ≤ b ∧ a = s.pc
  | .operandRange d a =>
      (∃ x, (i = .ldF x ∨ i = .ldHf x ∨ i = .skp x ∨ i = .sknp x) ∧ d = s.reg x) ∧
      15 < d.toNat ∧ s.cfg.digitPolicy = .fault ∧ a = s.pc
  | .framebufferRange x0 y0 a =>
      (∃ x y, (i = .drw16 x y ∨ i = .drw x y 0#4) ∧ x0 = s.drawX x ∧ y0 = s.drawY y ∧ ¬s.fits16 x y) ∧
      s.cfg.variant = .extended ∧ s.cfg.draw16Edge = .fault ∧ a = s.pc

/-- The outcome is a next state, or a fault of which `P` holds. -/
def FaultsOnly (P : Fault → Prop) (r : Result) : Prop :=
  (∀ f, r = .fault f → P f) ∧ ∀ e, r ≠ .refused e

section
variable {P : Fault → Prop} {i : Instr} {s : State} {x y : Nibble}

theorem faultsOnly_next (t : State) : FaultsOnly P (.next t) :=
  ⟨nofun, nofun⟩

theorem faultsOnly_orRaise {α : Type} {r : Except Fault α} {k : α → Result} (hr : ∀ f, r = .error f → P f)
    (hk : ∀ a, r = .ok a → FaultsOnly P (k a)) : FaultsOnly P (orRaise r k) := by
  cases r with
  | error f =>
    refine ⟨fun g hg => ?_, nofun⟩
    cases hg
    exact hr _ rfl
  | ok a => exact hk a rfl

/-- A meaning that raises what its operands raise, and otherwise goes on. -/
theorem faultsOnly_orRaise_next {α : Type} {r : Except Fault α} {k : α → State}
    (hr : ∀ f, r = .error f → P f) : FaultsOnly P (orRaise r fun a => .next (k a)) :=
  faultsOnly_orRaise hr fun a _ => faultsOnly_next (k a)

/-! ### The faults of the shared operations -/

theorem faultListed_of_push {nnn : Addr12} {f : Fault} (h : s.push (s.pc + 2#16) = .error f) :
    FaultListed (.call nnn) s f := by
  by_cases hsp : s.sp.val < 16
  · rw [State.push_ok s _ hsp] at h
    cases h
  · have hfull : s.sp.val = 16 := by omega
    rw [State.push_full s _ hfull] at h
    split at h
    case h_1 hp => cases h; exact ⟨⟨nnn, rfl⟩, hfull, hp, rfl, rfl⟩
    case h_2 => cases h

theorem faultListed_of_pop {f : Fault} (h : s.pop = .error f) : FaultListed .ret s f := by
  by_cases hsp : 0 < s.sp.val
  · obtain ⟨k, sp, -, -, hpop⟩ := s.pop_ok hsp
    rw [hpop] at h
    cases h
  · have hempty : s.sp.val = 0 := by omega
    rw [State.pop_empty s hempty] at h
    split at h
    case h_1 hp => cases h; exact ⟨rfl, hempty, hp, rfl⟩
    case h_2 => cases h

theorem faultListed_of_digit {f : Fault} (hi : i = .ldF x ∨ i = .ldHf x ∨ i = .skp x ∨ i = .sknp x)
    (h : s.digit x = .error f) : FaultListed i s f := by
  obtain ⟨hbig, hp, rfl⟩ := s.digit_fault x f h
  exact ⟨⟨x, hi, rfl⟩, by bv_omega, hp, rfl⟩

theorem faultListed_of_readBytes {n : Nat} {f : Fault}
    (hi : (∃ x y n, i = .drw x y n) ∨ (∃ x y, i = .drw16 x y) ∨ (∃ x, i = .ldB x) ∨
      (∃ x, i = .storeRegs x) ∨ ∃ x, i = .loadRegs x)
    (h : s.readBytes s.idx.toNat n = .error f) : FaultListed i s f := by
  obtain ⟨hp, b, hmem, hidx, -, rfl⟩ := s.readBytes_fault _ _ _ h
  exact ⟨hi, hp, hmem, hidx, rfl⟩

theorem faultListed_of_writeBytes {bytes : List Byte} {f : Fault}
    (hi : (∃ x y n, i = .drw x y n) ∨ (∃ x y, i = .drw16 x y) ∨ (∃ x, i = .ldB x) ∨
      (∃ x, i = .storeRegs x) ∨ ∃ x, i = .loadRegs x)
    (hlen : bytes.length ≤ memSize) (h : s.writeBytes s.idx.toNat bytes = .error f) : FaultListed i s f := by
  obtain ⟨hp, b, hmem, hidx, -, rfl⟩ := s.writeBytes_fault _ _ _ hlen h
  exact ⟨hi, hp, hmem, hidx, rfl⟩

theorem pixels16_error {x0 y0 : Nat} {ps : List Pixel} {f : Fault} (h : s.pixels16 x0 y0 ps = .error f) :
    ¬(x0 + 15 < s.fb.w ∧ y0 + 15 < s.fb.h) ∧ s.cfg.draw16Edge = .fault ∧ f = .framebufferRange x0 y0 s.pc := by
  unfold State.pixels16 at h
  split at h
  case isTrue => cases h
  case isFalse hfit =>
    split at h
    case h_1 hedge => cases h; exact ⟨hfit, hedge, rfl⟩
    case h_2 => cases h
    case h_3 => cases h

theorem faultsOnly_drawRows {n : Nat} (hi : ∃ x y n, i = .drw x y n) :
    FaultsOnly (FaultListed i s) (s.drawRows x y n) :=
  faultsOnly_orRaise_next fun _ => faultListed_of_readBytes (.inl hi)

theorem faultsOnly_draw16 (hext : s.cfg.variant = .extended) (hi : i = .drw16 x y ∨ i = .drw x y 0#4) :
    FaultsOnly (FaultListed i s) (s.draw16 x y) := by
  have hdraw : (∃ x y n, i = .drw x y n) ∨ ∃ x y, i = .drw16 x y :=
    hi.elim (fun h => .inr ⟨x, y, h⟩) fun h => .inl ⟨x, y, 0#4, h⟩
  refine faultsOnly_orRaise (fun _ => faultListed_of_readBytes (hdraw.imp_right .inl)) fun bytes _ => ?_
  refine faultsOnly_orRaise_next fun f hf => ?_
  obtain ⟨hfit, hedge, rfl⟩ := pixels16_error hf
  exact ⟨⟨x, y, hi, rfl, rfl, fun h => hfit ⟨by have := h.1; omega, by have := h.2; omega⟩⟩, hext, hedge, rfl⟩

end

theorem bcdDigits_fits (b : Byte) : (bcdDigits b).length ≤ memSize := by
  rw [bcdDigits_length]
  decide

theorem firstRegs_fits (s : State) (x : Nibble) : (s.firstRegs (x.toNat + 1)).length ≤ memSize := by
  have := x.isLt
  simp only [State.firstRegs_length, memSize]
  omega

/-- Every instruction ends in a next state or a listed fault. -/
theorem exec_faultsOnly (i : Instr) (s : State) : FaultsOnly (FaultListed i s) (exec i s) := by
  cases i with
  | cls | sys nnn | jp nnn | seImm x nn | sneImm x nn | seReg x y | ldImm x nn | addImm x nn | ldReg x y
  | orReg x y | andReg x y | xorReg x y | addReg x y | subReg x y | shr x y | subn x y | shl x y | sneReg x y
  | ldI nnn | jpV0 nnn | rnd x nn | ldVxDt x | ldDtVx x | ldStVx x | addI x => exact faultsOnly_next _
  | scd n | scr | scl | exitReq | low | high | storeRpl x | loadRpl x =>
    simp only [exec, execScd, execScr, execScl, execExit, execLow, execHigh, execStoreRpl, execLoadRpl]
    split <;> exact faultsOnly_next _
  | call nnn => exact faultsOnly_orRaise_next fun _ => faultListed_of_push
  | ret => exact faultsOnly_orRaise_next fun _ => faultListed_of_pop
  | drw16 x y =>
    simp only [exec, execDrw16]
    split
    case h_1 hext => exact faultsOnly_draw16 hext (.inl rfl)
    case h_2 => exact faultsOnly_orRaise_next fun _ => faultListed_of_readBytes (.inr (.inl ⟨x, y, rfl⟩))
  | drw x y n =>
    simp only [exec, execDrw]
    split
    case isTrue h => rw [h.1]; exact faultsOnly_draw16 h.2 (.inr rfl)
    case isFalse => exact faultsOnly_drawRows ⟨x, y, n, rfl⟩
  | skp x => exact faultsOnly_orRaise_next fun _ => faultListed_of_digit (.inr (.inr (.inl rfl)))
  | sknp x => exact faultsOnly_orRaise_next fun _ => faultListed_of_digit (.inr (.inr (.inr rfl)))
  | ldF x => exact faultsOnly_orRaise_next fun _ => faultListed_of_digit (.inl rfl)
  | ldHf x =>
    simp only [exec, execLdHf]
    split
    case h_1 => exact faultsOnly_orRaise_next fun _ => faultListed_of_digit (.inr (.inl rfl))
    case h_2 => exact faultsOnly_next _
  | ldVxK x =>
    simp only [exec, execLdVxK]
    split
    case h_1 => exact faultsOnly_next _
    case h_2 => split <;> exact faultsOnly_next _
  | ldB x =>
    exact faultsOnly_orRaise_next fun _ =>
      faultListed_of_writeBytes (.inr (.inr (.inl ⟨x, rfl⟩))) (bcdDigits_fits _)
  | storeRegs x =>
    exact faultsOnly_orRaise_next fun _ =>
      faultListed_of_writeBytes (.inr (.inr (.inr (.inl ⟨x, rfl⟩)))) (firstRegs_fits s x)
  | loadRegs x =>
    exact faultsOnly_orRaise_next fun _ => faultListed_of_readBytes (.inr (.inr (.inr (.inr ⟨x, rfl⟩))))

theorem execute_ne_refused (s : State) (w : Word) (e : Refusal) : s.execute w ≠ .refused e := by
  unfold State.execute
  split
  case h_1 i _ => exact (exec_faultsOnly i s).2 e
  case h_2 => nofun

theorem instructionStep_ne_refused (s : State) (e : Refusal) : s.instructionStep ≠ .refused e := by
  unfold State.instructionStep
  split
  case isTrue => nofun
  case isFalse =>
    intro h
    obtain ⟨w, -, hw⟩ := (orRaise_refused _ _ _).mp h
    exact execute_ne_refused s w e hw

theorem step_ne_refused (s : State) (e : Refusal) : step s ≠ .refused e := by
  cases hreq : s.nextRequest with
  | instruction k r =>
    rw [step_of_instruction s k r hreq]
    exact instructionStep_ne_refused _ e
  | tick => rw [step_of_tick s hreq]; nofun
  | reset => rw [step_of_reset s hreq]; nofun

/-- Settles O14: an instruction's outcome is a next state or a listed fault, and a step's is an instruction's or a
next state. -/
theorem nothingIsRefused : Obligations.NothingIsRefused :=
  ⟨fun i s e => (exec_faultsOnly i s).2 e, step_ne_refused⟩

/-- Settles O15: each fault of an instruction is raised by one shared operation, which says when and with what. -/
theorem faultsOnlyAsListed : Obligations.FaultsOnlyAsListed := by
  intro i s f h
  have hlisted := (exec_faultsOnly i s).1 f h
  cases f <;> exact hlisted

end Sys2Proof.Machine
end


section
/-! What an instruction may change (10_state.md R20 to R39): the next states of every instruction by the fields
they differ in, and the frames and invariants that follow from it. -/

namespace Sys2Proof.Machine

/-- What an instruction that answers a next state did, by the fields it may have written. The values of PC are
left open: R24 has a table of its own. -/
inductive Effect (s : State) : Instr → State → Prop
  /-- PC alone: the jumps and the skips. -/
  | control (i : Instr) (p : Word) : Effect s i { s with pc := p }
  /-- A notice: SYS, and the extended instructions on the base machine. -/
  | notice (i : Instr) (p : Word) (n : Notice) :
      Effect s i { s with pc := p, out := { s.out with diag := some n } }
  /-- Registers: loads, the ALU, RND, LD Vx,DT and LD Vx,R. -/
  | registers (i : Instr) (p : Word) (v : Vector Byte 16)
      (hv : RegsKept s { s with v := v } (mayWrite s.cfg.variant i)) : Effect s i { s with v := v, pc := p }
  /-- `I` alone. -/
  | index (i : Instr) (p a : Word)
      (hi : (∃ nnn, i = .ldI nnn) ∨ (∃ x, i = .addI x) ∨ (∃ x, i = .ldF x) ∨ ∃ x, i = .ldHf x) :
      Effect s i { s with idx := a, pc := p }
  | bcd (x : Nibble) (p : Word) (m : Mem) (hm : s.mem.wf = true → m.wf = true) :
      Effect s (.ldB x) { s with mem := m, pc := p }
  | storeRegs (x : Nibble) (p : Word) (m : Mem) (hm : s.mem.wf = true → m.wf = true) :
      Effect s (.storeRegs x) { s with mem := m, idx := s.indexAfterBlock x, pc := p }
  | loadRegs (x : Nibble) (p : Word) (v : Vector Byte 16)
      (hv : RegsKept s { s with v := v } (mayWrite s.cfg.variant (.loadRegs x))) :
      Effect s (.loadRegs x) { s with v := v, idx := s.indexAfterBlock x, pc := p }
  | call (nnn : Addr12) (p : Word) (stk : Vector Word 16) (sp : Fin 17) :
      Effect s (.call nnn) { s with stk := stk, sp := sp, pc := p }
  | ret (p : Word) (sp : Fin 17) : Effect s .ret { s with sp := sp, pc := p }
  /-- The grid alone, its size kept: CLS and the scrolls. -/
  | pixels (i : Instr) (p : Word) (fb : Framebuffer)
      (hi : i = .cls ∨ (∃ n, i = .scd n) ∨ i = .scr ∨ i = .scl)
      (hw : fb.w = s.fb.w) (hh : fb.h = s.fb.h) (hwf : s.fb.wf = true → fb.wf = true) :
      Effect s i { s with fb := fb, pc := p }
  /-- The grid, its size kept, and the flag register: the draws. -/
  | draw (i : Instr) (p : Word) (v : Vector Byte 16) (fb : Framebuffer)
      (hi : (∃ x y n, i = .drw x y n) ∨ ∃ x y, i = .drw16 x y)
      (hv : RegsKept s { s with v := v } [flagReg])
      (hw : fb.w = s.fb.w) (hh : fb.h = s.fb.h) (hwf : s.fb.wf = true → fb.wf = true) :
      Effect s i { s with v := v, fb := fb, pc := p }
  | low (p : Word) (hext : s.cfg.variant = .extended) :
      Effect s .low { s with hires := false, fb := Framebuffer.replace 64 32, pc := p }
  | high (p : Word) (hext : s.cfg.variant = .extended) :
      Effect s .high { s with hires := true, fb := Framebuffer.replace 128 64, pc := p }
  | exitReq (p : Word) :
      Effect s .exitReq { s with halted := true, out := { s.out with exitReq := true }, pc := p }
  | ldVxK (x : Nibble) (p : Word) (v : Vector Byte 16) (k : Option (Fin 16))
      (hv : RegsKept s { s with v := v } [x]) : Effect s (.ldVxK x) { s with v := v, kwait := k, pc := p }
  | ldDtVx (x : Nibble) (p : Word) (b : Byte) : Effect s (.ldDtVx x) { s with dt := b, pc := p }
  | ldStVx (x : Nibble) (p : Word) (b : Byte) : Effect s (.ldStVx x) { s with st := b, pc := p }
  | storeRpl (x : Nibble) (p : Word) (r : Vector Byte 8) (hext : s.cfg.variant = .extended) :
      Effect s (.storeRpl x) { s with rpl := r, pc := p }

/-! ### The registers an effect keeps -/

theorem regsKept_setReg (s : State) (x : Nibble) (b : Byte) : RegsKept s (s.setReg x b) [x] := by
  intro r hr
  rw [State.reg_setReg, if_neg fun h => hr (by simp [h])]

/-- A register outside the first `n`. -/
theorem le_toNat_of_not_mem_first {n : Nat} {r : Nibble} (hr : r ∉ (List.range n).map (BitVec.ofNat 4)) :
    n ≤ r.toNat := by
  refine Nat.le_of_not_lt fun hlt => hr ?_
  exact List.mem_map.mpr ⟨r.toNat, List.mem_range.mpr hlt, by simp⟩

theorem Effect.of_setReg (s : State) {i : Instr} {x : Nibble} (b : Byte) (hi : mayWrite s.cfg.variant i = [x]) :
    Effect s i (s.advance.setReg x b) :=
  .registers i _ _ (by rw [hi]; exact regsKept_setReg s x b)

theorem Effect.of_setFlagged (s : State) {i : Instr} {x : Nibble} (flag : Bool) (b : Byte)
    (hi : mayWrite s.cfg.variant i = [x, flagReg]) : Effect s i (s.advance.setFlagged flag x b) :=
  .registers i _ _ (by rw [hi]; exact (regFrame_setFlagged s flag x b).1)

/-- The logic write is the flag-writing one on the base machine and a plain one on the extended machine. -/
theorem Effect.of_setLogic (s : State) {i : Instr} {x : Nibble} (b : Byte)
    (hbase : mayWrite .base i = [x, flagReg]) (hext : mayWrite .extended i = [x]) :
    Effect s i (s.advance.setLogic x b) := by
  unfold State.setLogic
  cases hv : s.cfg.variant with
  | base => simpa [hv] using Effect.of_setFlagged s false b (hv ▸ hbase)
  | extended => simpa [hv] using Effect.of_setReg s b (hv ▸ hext)

theorem Effect.of_skipIf (s : State) (i : Instr) (c : Bool) : Effect s i (s.skipIf c) := by
  rw [State.skipIf_eq]
  exact .control i _

theorem effect_of_draw {i : Instr} {s t : State} (hi : (∃ x y n, i = .drw x y n) ∨ ∃ x y, i = .drw16 x y)
    (h : exec i s = .next t) : Effect s i t := by
  obtain ⟨g, rfl, hw, hh, hwf⟩ := exec_draw_next i s t hi h
  rw [State.drawn_eq]
  exact .draw i _ _ _ hi (regsKept_setReg s flagReg _) hw hh hwf

theorem effect_ldVxK {x : Nibble} {s t : State} (h : execLdVxK x s = .next t) : Effect s (.ldVxK x) t := by
  obtain ⟨-, rfl⟩ | ⟨k, -, -, rfl⟩ | ⟨k, -, -, rfl⟩ := execLdVxK_next x s t h
  · exact .ldVxK x s.pc s.v _ fun _ _ => rfl
  · exact .ldVxK x _ _ _ fun _ _ => rfl
  · exact .ldVxK x _ _ none (regsKept_setReg s x _)

/-- LD Vx,R writes the registers up to the last RPL slot it reaches (R201). -/
theorem regsKept_loadRpl (s : State) (x : Nibble) :
    RegsKept s (s.setFirstRegs (s.rpl.toList.take (rplLast x + 1)))
      ((List.range (rplLast x + 1)).map (BitVec.ofNat 4)) := by
  intro r hr
  have hlen := List.length_take_le (rplLast x + 1) s.rpl.toList
  rw [State.reg_setFirstRegs, List.getD_eq_default _ _ (hlen.trans (le_toNat_of_not_mem_first hr))]

theorem effect_loadRegs {x : Nibble} {s t : State} (h : execLoadRegs x s = .next t) :
    Effect s (.loadRegs x) t := by
  rw [(execLoadRegs_next x s t h).1]
  exact .loadRegs x _ t.v fun r hr => execLoadRegs_above x s t h r (le_toNat_of_not_mem_first hr)

/-- Everything an instruction that goes on can do to the fields beside PC. -/
theorem exec_effect {i : Instr} {s t : State} (h : exec i s = .next t) : Effect s i t := by
  cases i with
  | cls => cases h; exact .pixels _ _ _ (.inl rfl) rfl rfl (Framebuffer.clear_wf _)
  | scd n =>
    obtain ⟨-, rfl⟩ | ⟨-, rfl⟩ := next_of_gate h
    · exact .pixels _ _ _ (.inr (.inl ⟨n, rfl⟩)) rfl rfl (Framebuffer.scrollDown_wf _ _)
    · exact .notice _ _ _
  | scr =>
    obtain ⟨-, rfl⟩ | ⟨-, rfl⟩ := next_of_gate h
    · exact .pixels _ _ _ (.inr (.inr (.inl rfl))) rfl rfl (Framebuffer.scrollRight_wf _)
    · exact .notice _ _ _
  | scl =>
    obtain ⟨-, rfl⟩ | ⟨-, rfl⟩ := next_of_gate h
    · exact .pixels _ _ _ (.inr (.inr (.inr rfl))) rfl rfl (Framebuffer.scrollLeft_wf _)
    · exact .notice _ _ _
  | low =>
    obtain ⟨hext, rfl⟩ | ⟨-, rfl⟩ := next_of_gate h
    · exact .low _ hext
    · exact .notice _ _ _
  | high =>
    obtain ⟨hext, rfl⟩ | ⟨-, rfl⟩ := next_of_gate h
    · exact .high _ hext
    · exact .notice _ _ _
  | exitReq =>
    obtain ⟨-, rfl⟩ | ⟨-, rfl⟩ := next_of_gate h
    · exact .exitReq _
    · exact .notice _ _ _
  | storeRpl x =>
    obtain ⟨hext, rfl⟩ | ⟨-, rfl⟩ := next_of_gate h
    · exact .storeRpl x _ _ hext
    · exact .notice _ _ _
  | loadRpl x =>
    obtain ⟨hext, rfl⟩ | ⟨-, rfl⟩ := next_of_gate h
    · exact .registers _ _ _ (by rw [hext]; exact regsKept_loadRpl s x)
    · exact .notice _ _ _
  | sys nnn => cases h; exact .notice _ _ _
  | jp nnn | jpV0 nnn => cases h; exact .control _ _
  | seImm x nn | sneImm x nn | seReg x y | sneReg x y => cases h; exact .of_skipIf s _ _
  | skp x => rw [execSkp_next x s t h]; exact .of_skipIf s _ _
  | sknp x => rw [execSknp_next x s t h]; exact .of_skipIf s _ _
  | call nnn => rw [execCall_next nnn s t h]; exact .call nnn _ _ _
  | ret => rw [(execRet_next s t h).1]; exact .ret _ _
  | ldImm x nn | addImm x nn | ldReg x y | rnd x nn | ldVxDt x => cases h; exact .of_setReg s _ rfl
  | addReg x y | subReg x y | shr x y | subn x y | shl x y => cases h; exact .of_setFlagged s _ _ rfl
  | orReg x y | andReg x y | xorReg x y => cases h; exact .of_setLogic s _ rfl rfl
  | ldI nnn => cases h; exact .index _ _ _ (.inl ⟨nnn, rfl⟩)
  | addI x => cases h; exact .index _ _ _ (.inr (.inl ⟨x, rfl⟩))
  | ldF x => rw [execLdF_next x s t h]; exact .index _ _ _ (.inr (.inr (.inl ⟨x, rfl⟩)))
  | ldHf x =>
    obtain ⟨-, ht⟩ | ⟨-, rfl⟩ := execLdHf_next x s t h
    · rw [ht]; exact .index _ _ _ (.inr (.inr (.inr ⟨x, rfl⟩)))
    · exact .notice _ _ _
  | ldB x =>
    obtain ⟨ht, hm⟩ := execLdB_next x s t h
    rw [ht]; exact .bcd x _ _ hm
  | storeRegs x =>
    obtain ⟨ht, hm⟩ := execStoreRegs_next x s t h
    rw [ht]; exact .storeRegs x _ _ hm
  | loadRegs x => exact effect_loadRegs h
  | drw16 x y => exact effect_of_draw (.inr ⟨x, y, rfl⟩) h
  | drw x y n => exact effect_of_draw (.inl ⟨x, y, n, rfl⟩) h
  | ldVxK x => exact effect_ldVxK h
  | ldDtVx x => cases h; exact .ldDtVx x _ _
  | ldStVx x => cases h; exact .ldStVx x _ _

/-! ### The frames -/

/-- Settles O17: only the effects of CALL, RET and LD R,Vx name the stack or RPL. -/
theorem stackAndRplHaveTheirOwnInstructions : Obligations.StackAndRplHaveTheirOwnInstructions := by
  intro i s t h
  cases exec_effect h with
  | call nnn => exact ⟨fun hi => absurd rfl (hi nnn), fun hi => absurd rfl (hi nnn), fun _ => rfl⟩
  | ret => exact ⟨fun _ => rfl, fun _ hi => absurd rfl hi, fun _ => rfl⟩
  | storeRpl x p r hext =>
    refine ⟨fun _ => rfl, fun _ _ => rfl, ?_⟩
    rintro (hi | hbase)
    · exact absurd rfl (hi x)
    · rw [hext] at hbase; cases hbase
  | _ => exact ⟨fun _ => rfl, fun _ _ => rfl, fun _ => rfl⟩

/-- Settles O18: the effects that name the framebuffer are those of the instructions listed, and those of LOW and
HIGH alone change its size. -/
theorem framebufferHasItsOwnInstructions : Obligations.FramebufferHasItsOwnInstructions := by
  intro i s t h
  cases exec_effect h with
  | pixels i p fb hi hw hh =>
    refine ⟨fun hcls _ _ hscd hscr hscl _ _ => ?_, fun _ _ => ⟨hw, hh, rfl⟩⟩
    obtain rfl | ⟨n, rfl⟩ | rfl | rfl := hi
    · exact absurd rfl hcls
    · exact absurd rfl (hscd n)
    · exact absurd rfl hscr
    · exact absurd rfl hscl
  | draw i p v fb hi _ hw hh =>
    refine ⟨fun _ hdrw hdrw16 _ _ _ _ _ => ?_, fun _ _ => ⟨hw, hh, rfl⟩⟩
    obtain ⟨x, y, n, rfl⟩ | ⟨x, y, rfl⟩ := hi
    · exact absurd rfl (hdrw x y n)
    · exact absurd rfl (hdrw16 x y)
  | low => exact ⟨fun _ _ _ _ _ _ hlow _ => absurd rfl hlow, fun hlow _ => absurd rfl hlow⟩
  | high => exact ⟨fun _ _ _ _ _ _ _ hhigh => absurd rfl hhigh, fun _ hhigh => absurd rfl hhigh⟩
  | _ => exact ⟨fun _ _ _ _ _ _ _ _ => rfl, fun _ _ => ⟨rfl, rfl, rfl⟩⟩

/-- Settles O19: only the effects of LD B and LD [I],Vx name memory, and a tick is none of them. -/
theorem memoryHasTwoWriters : Obligations.MemoryHasTwoWriters := by
  refine ⟨fun i s t h hbcd hstore a => ?_, fun s t hreq h a => ?_⟩
  · cases exec_effect h with
    | bcd x => exact absurd rfl (hbcd x)
    | storeRegs x => exact absurd rfl (hstore x)
    | _ => rfl
  · rw [step_of_tick s hreq] at h
    cases h
    rfl

/-- Settles O20: an effect that names the registers says which it keeps. -/
theorem registersChangeOnlyAsListed : Obligations.RegistersChangeOnlyAsListed := by
  intro i s t h
  cases exec_effect h with
  | registers i p v hv => exact hv
  | loadRegs x p v hv => exact hv
  | ldVxK x p v k hv => exact hv
  | draw i p v fb hi hv => obtain ⟨x, y, n, rfl⟩ | ⟨x, y, rfl⟩ := hi <;> exact hv
  | _ => exact fun _ _ => rfl

/-- Settles O21: beside the four loads of `I` only the block transfers name it, and on the extended machine they
leave it where it was. -/
theorem indexHasItsOwnInstructions : Obligations.IndexHasItsOwnInstructions := by
  intro i s t h hldI haddI hldF hldHf hblock
  cases exec_effect h with
  | index i p a hi =>
    obtain ⟨nnn, rfl⟩ | ⟨x, rfl⟩ | ⟨x, rfl⟩ | ⟨x, rfl⟩ := hi
    · exact absurd rfl (hldI nnn)
    · exact absurd rfl (haddI x)
    · exact absurd rfl (hldF x)
    · exact absurd rfl (hldHf x)
  | storeRegs x =>
    obtain hext | ⟨hstore, -⟩ := hblock
    · exact indexAfterBlock_extended hext x
    · exact absurd rfl (hstore x)
  | loadRegs x =>
    obtain hext | ⟨-, hload⟩ := hblock
    · exact indexAfterBlock_extended hext x
    · exact absurd rfl (hload x)
  | _ => rfl

/-- Settles O23: no effect names an input, a request or a parameter, and only those of EXIT and LD Vx,K name the
halt and the latch. -/
theorem controlStateHasItsOwnInstructions : Obligations.ControlStateHasItsOwnInstructions := by
  intro i s t h
  cases exec_effect h with
  | exitReq => exact ⟨rfl, rfl, rfl, rfl, rfl, fun hi => absurd rfl hi, fun _ => rfl, rfl⟩
  | ldVxK x => exact ⟨rfl, rfl, rfl, rfl, rfl, fun _ => ⟨rfl, rfl⟩, fun hi => absurd rfl (hi x), rfl⟩
  | _ => exact ⟨rfl, rfl, rfl, rfl, rfl, fun _ => ⟨rfl, rfl⟩, fun _ => rfl, rfl⟩

end Sys2Proof.Machine
end


section
/-! What every step keeps or moves (10_state.md R23, R29, R31 to R35, R60): the parameters, the timers, the
well-formedness of the state, and the key latch at its instruction. -/

namespace Sys2Proof.Machine

/-! ### What a step can do -/

/-- A step that goes on serves a tick or a reset, or is an instruction step of the state with the request's inputs:
nothing after EXIT, the effect of the fetched instruction, or the notice of an unknown word. The fetch is that of
the state before the step. -/
theorem step_effect {s t : State} (h : step s = .next t) :
    t = s.beginStep.tick ∨ t = s.beginStep.warmReset ∨
    ∃ u : State, (∃ k r, u = s.beginStep.withInputs k r) ∧
      (t = u ∨
      (∃ w i, s.fetch = .ok w ∧ decode s.cfg.variant w = .ok i ∧ exec i u = .next t) ∨
      ∃ w e, s.fetch = .ok w ∧ decode s.cfg.variant w = .error e ∧ t = u.unknownNotice w) := by
  obtain ⟨k, r, -, hstep⟩ | ⟨-, rfl⟩ | ⟨-, rfl⟩ := step_next s t h
  · refine .inr (.inr ⟨_, ⟨k, r, rfl⟩, ?_⟩)
    obtain ⟨-, rfl⟩ | ⟨-, w, hfetch, ⟨i, hdec, hexec⟩ | ⟨e, hdec, rfl⟩⟩ := State.instructionStep_next _ t hstep
    · exact .inl rfl
    · exact .inr (.inl ⟨w, i, hfetch, hdec, hexec⟩)
    · exact .inr (.inr ⟨w, e, hfetch, hdec, rfl⟩)
  · exact .inl rfl
  · exact .inr (.inl rfl)

/-- Settles O16: no request and no instruction names the parameters. -/
theorem parametersNeverChange : Obligations.ParametersNeverChange := by
  intro s t h
  obtain rfl | rfl | ⟨_, ⟨k, r, rfl⟩, rfl | ⟨w, i, -, -, hexec⟩ | ⟨w, e, -, -, rfl⟩⟩ := step_effect h
  · rfl
  · rfl
  · rfl
  · obtain ⟨-, -, -, -, hcfg, -⟩ := controlStateHasItsOwnInstructions i _ t hexec
    exact hcfg
  · rfl

/-! ### The timers -/

theorem exec_dt {i : Instr} {s t : State} (h : exec i s = .next t) (hi : ∀ x, i ≠ .ldDtVx x) : t.dt = s.dt := by
  cases exec_effect h with
  | ldDtVx x => exact absurd rfl (hi x)
  | _ => rfl

theorem exec_st {i : Instr} {s t : State} (h : exec i s = .next t) (hi : ∀ x, i ≠ .ldStVx x) : t.st = s.st := by
  cases exec_effect h with
  | ldStVx x => exact absurd rfl (hi x)
  | _ => rfl

/-- A value that a step left alone has not risen. -/
theorem not_lt_of_eq {a b : Byte} (h : b = a) : ¬a.toNat < b.toNat := by
  rw [h]
  exact Nat.lt_irrefl _

theorem countDown_not_lt (b : Byte) : ¬b.toNat < (if b = 0#8 then 0#8 else b - 1#8).toNat := by
  rw [toNat_countDown]
  omega

/-- Settles O22: a tick counts down, a reset clears, and of the instructions only the two loads write a timer. -/
theorem timersRiseOnlyByTheirLoads : Obligations.TimersRiseOnlyByTheirLoads := by
  intro s t h
  obtain rfl | rfl | ⟨_, ⟨k, r, rfl⟩, rfl | ⟨w, i, hfetch, hdec, hexec⟩ | ⟨w, e, -, -, rfl⟩⟩ := step_effect h
  · exact ⟨fun hlt => absurd hlt (countDown_not_lt _), fun hlt => absurd hlt (countDown_not_lt _)⟩
  · exact ⟨fun hlt => absurd hlt (Nat.not_lt_zero _), fun hlt => absurd hlt (Nat.not_lt_zero _)⟩
  · exact ⟨fun hlt => absurd hlt (not_lt_of_eq rfl), fun hlt => absurd hlt (not_lt_of_eq rfl)⟩
  · constructor
    · intro hlt
      by_contra hload
      exact not_lt_of_eq (exec_dt hexec fun x hi => hload ⟨w, x, hfetch, hi ▸ hdec⟩) hlt
    · intro hlt
      by_contra hload
      exact not_lt_of_eq (exec_st hexec fun x hi => hload ⟨w, x, hfetch, hi ▸ hdec⟩) hlt
  · exact ⟨fun hlt => absurd hlt (not_lt_of_eq rfl), fun hlt => absurd hlt (not_lt_of_eq rfl)⟩

/-! ### Well-formedness -/

theorem State.wf_iff (s : State) : s.wf = true ↔ s.mem.wf = true ∧ s.fb.wf = true ∧ s.resolutionOk = true := by
  simp only [State.wf, Bool.and_eq_true, and_assoc]

/-- The resolution rule looks at the grid's dimensions alone. -/
theorem resolutionOk_with_fb {s : State} {fb : Framebuffer} (hw : fb.w = s.fb.w) (hh : fb.h = s.fb.h) :
    { s with fb := fb }.resolutionOk = s.resolutionOk := by
  simp only [State.resolutionOk, hw, hh]

theorem wf_with_mem {s : State} {m : Mem} (h : s.wf = true) (hm : s.mem.wf = true → m.wf = true) :
    { s with mem := m }.wf = true := by
  rw [State.wf_iff] at h ⊢
  exact ⟨hm h.1, h.2⟩

theorem wf_with_fb {s : State} {fb : Framebuffer} (h : s.wf = true) (hw : fb.w = s.fb.w) (hh : fb.h = s.fb.h)
    (hwf : s.fb.wf = true → fb.wf = true) : { s with fb := fb }.wf = true := by
  rw [State.wf_iff] at h ⊢
  obtain ⟨hmem, hfb, hres⟩ := h
  exact ⟨hmem, hwf hfb, (resolutionOk_with_fb hw hh).trans hres⟩

/-- LOW's empty grid, and HIGH's, agree with the HIRES they set. -/
theorem wf_with_low {s : State} (h : s.wf = true) :
    { s with hires := false, fb := Framebuffer.replace 64 32 }.wf = true := by
  rw [State.wf_iff] at h ⊢
  exact ⟨h.1, rfl, by simp [State.resolutionOk, Framebuffer.replace]⟩

theorem wf_with_high {s : State} (h : s.wf = true) (hext : s.cfg.variant = .extended) :
    { s with hires := true, fb := Framebuffer.replace 128 64 }.wf = true := by
  rw [State.wf_iff] at h ⊢
  exact ⟨h.1, rfl, by simp [State.resolutionOk, Framebuffer.replace, hext]⟩

theorem exec_wf {i : Instr} {s t : State} (hs : s.wf = true) (h : exec i s = .next t) : t.wf = true := by
  cases exec_effect h with
  | bcd x p m hm => exact wf_with_mem hs hm
  | storeRegs x p m hm => exact wf_with_mem hs hm
  | pixels i p fb hi hw hh hwf => exact wf_with_fb hs hw hh hwf
  | draw i p v fb hi hv hw hh hwf => exact wf_with_fb hs hw hh hwf
  | low => exact wf_with_low hs
  | high p hext => exact wf_with_high hs hext
  | _ => exact hs

/-- Settles O25: requests touch no list but by the reset's empty grid, and every effect on memory and grid keeps
its form. -/
theorem everyStepKeepsTheStateWellFormed : Obligations.EveryStepKeepsTheStateWellFormed := by
  intro s t hs h
  obtain rfl | rfl | ⟨_, ⟨k, r, rfl⟩, rfl | ⟨w, i, -, -, hexec⟩ | ⟨w, e, -, -, rfl⟩⟩ := step_effect h
  · exact hs
  · exact wf_initial_with_mem s.cfg _ ((State.wf_iff s).mp hs).1
  · exact hs
  · exact exec_wf (s := s.beginStep.withInputs k r) hs hexec
  · exact hs

/-! ### The key latch -/

/-- The invariant of R35 in terms of the decoder: the fetched word of a latched state is LD Vx,K's. -/
theorem latchOk_iff (s : State) :
    s.latchOk = true ↔
      (s.kwait ≠ none → ∃ w x, s.fetch = .ok w ∧ decode s.cfg.variant w = .ok (.ldVxK x)) := by
  unfold State.latchOk
  cases hk : s.kwait with
  | none => simp
  | some k =>
    cases hf : s.fetch with
    | error f => simp
    | ok w =>
      simp only [beq_iff_eq, ne_eq, reduceCtorEq, not_false_eq_true, true_imp_iff, Except.ok.injEq]
      constructor
      · intro hw
        have hword : 0xF#4 ++ (fields w).x ++ 0x0A#8 = w := word_of_mask_X hw
        have hdec : decode s.cfg.variant (0xF#4 ++ (fields w).x ++ 0x0A#8) = .ok (.ldVxK (fields w).x) :=
          decode_XI rfl
        rw [hword] at hdec
        exact ⟨w, (fields w).x, rfl, hdec⟩
      · rintro ⟨_, x, rfl, hdec⟩
        rw [← (encode_of_decode hdec).1]
        exact (Laws.TableRow.ldVxK x).1

/-- Any other instruction leaves the latch as it is (R35). -/
theorem exec_kwait {i : Instr} {s t : State} (h : exec i s = .next t) (hi : ∀ x, i ≠ .ldVxK x) :
    t.kwait = s.kwait := by
  obtain ⟨-, -, -, -, -, -, hkwait, -⟩ := controlStateHasItsOwnInstructions i s t h
  exact hkwait hi

/-- LD Vx,K keeps the invariant: a key it latches or keeps waits at the instruction itself. -/
theorem latchOk_of_ldVxK {x : Nibble} {s t : State} (hs : s.latchOk = true) {w : Word} (hfetch : s.fetch = .ok w)
    (hdec : decode s.cfg.variant w = .ok (.ldVxK x)) (h : exec (.ldVxK x) s = .next t) : t.latchOk = true := by
  obtain ⟨-, rfl⟩ | ⟨k, -, -, rfl⟩ | ⟨k, -, -, rfl⟩ := execLdVxK_next x s t h
  · exact (latchOk_iff _).mpr fun _ => ⟨w, x, hfetch, hdec⟩
  · exact hs
  · rfl

/-- Where the fetched word is not LD Vx,K's no key is latched. -/
theorem kwait_eq_none {s : State} (hs : s.latchOk = true) {w : Word} (hfetch : s.fetch = .ok w)
    (hw : ∀ x, decode s.cfg.variant w ≠ .ok (.ldVxK x)) : s.kwait = none := by
  by_contra hk
  obtain ⟨w', x, hfetch', hdec⟩ := (latchOk_iff s).mp hs hk
  rw [hfetch] at hfetch'
  cases hfetch'
  exact hw x hdec

theorem latchOk_of_kwait_none {s : State} (h : s.kwait = none) : s.latchOk = true :=
  (latchOk_iff s).mpr fun hk => absurd h hk

/-- Settles O26: a key is latched by LD Vx,K alone, which stays at its instruction while it waits. -/
theorem everyStepKeepsTheKeyLatchAtItsInstruction : Obligations.EveryStepKeepsTheKeyLatchAtItsInstruction := by
  intro s t hs h
  obtain rfl | rfl | ⟨u, ⟨k, r, rfl⟩, rfl | ⟨w, i, hfetch, hdec, hexec⟩ | ⟨w, e, hfetch, hdec, rfl⟩⟩ := step_effect h
  · exact hs
  · rfl
  · exact hs
  · by_cases hi : ∃ x, i = .ldVxK x
    · obtain ⟨x, rfl⟩ := hi
      exact latchOk_of_ldVxK (s := s.beginStep.withInputs k r) hs hfetch hdec hexec
    · have hne : ∀ x, i ≠ .ldVxK x := fun x hx => hi ⟨x, hx⟩
      have hnone : s.kwait = none := kwait_eq_none hs hfetch fun x hx => hne x (by rw [hdec] at hx; cases hx; rfl)
      exact latchOk_of_kwait_none ((exec_kwait hexec hne).trans hnone)
  · have hnone : s.kwait = none := kwait_eq_none hs hfetch fun x hx => by rw [hdec] at hx; cases hx
    exact latchOk_of_kwait_none (s := (s.beginStep.withInputs k r).unknownNotice w) hnone

end Sys2Proof.Machine
end


section
/-! Where each instruction leaves PC (10_state.md R24; 40_control_flow.md R129). -/

namespace Sys2Proof.Machine

theorem toNat_add_two (p : Word) : (p + 2#16).toNat = (p.toNat + 2) % 65536 :=
  BitVec.toNat_add p 2#16

theorem toNat_target (nnn : Addr12) : (nnn.setWidth 16).toNat = nnn.toNat :=
  BitVec.toNat_setWidth_of_le (by decide)

/-- JP V0's sum stays below 2^16 (R128). -/
theorem toNat_target_add (nnn : Addr12) (b : Byte) :
    (nnn.setWidth 16 + b.setWidth 16).toNat = nnn.toNat + b.toNat := by
  have ha := nnn.isLt
  have hb := b.isLt
  rw [BitVec.toNat_add, toNat_target, BitVec.toNat_setWidth_of_le (by decide)]
  omega

theorem toNat_skipIf_pc (s : State) (c : Bool) {n : Nat} (hn : n = if c = true then 4 else 2) :
    (s.skipIf c).pc.toNat = (s.pc.toNat + n) % 65536 := by
  subst hn
  rw [State.skipIf_pc]
  cases c
  · exact toNat_add_two s.pc
  · exact BitVec.toNat_add s.pc 4#16

theorem key_lowNibble (s : State) (b : Byte) :
    s.key (b.extractLsb' 0 4).toFin = s.keys.toList.getD (b.toNat % 16) false := by
  have hlt : b.toNat % 16 < 16 := Nat.mod_lt _ (by decide)
  rw [toFin_lowNibble (k := ⟨b.toNat % 16, hlt⟩) rfl, State.key, List.getD_eq_getElem?_getD,
    Vector.getElem?_toList, Vector.getElem?_eq_getElem hlt]
  rfl

theorem toNat_pc_of_ret {s t : State} (h : exec .ret s = .next t) :
    t.pc.toNat = if s.sp.val = 0 then 0 else (s.stk.toList.getD (s.sp.val - 1) 0#16).toNat := by
  rw [(execRet_next s t h).2]
  split_ifs with hpos hzero hzero
  · omega
  · rfl
  · rfl
  · omega

theorem toNat_pc_of_ldVxK {x : Nibble} {s t : State} (h : exec (.ldVxK x) s = .next t) :
    t.pc.toNat = match s.kwait with
      | none => s.pc.toNat
      | some k => if s.keys[k] then s.pc.toNat else (s.pc.toNat + 2) % 65536 := by
  obtain ⟨hk, rfl⟩ | ⟨k, hk, hdown, rfl⟩ | ⟨k, hk, hup, rfl⟩ := execLdVxK_next x s t h <;> rw [hk]
  · exact (if_pos hdown).symm
  · have hopen : ¬s.keys[k] = true := Bool.eq_false_iff.mp hup
    exact (toNat_add_two s.pc).trans (if_neg hopen).symm

/-- Settles O24: the jumps, CALL, RET, the skips and the key wait by their own rule of R24, every other instruction
by the advance. -/
theorem pcAfterEachInstruction : Obligations.PcAfterEachInstruction := by
  intro i s t h
  cases i with
  | jp nnn => cases h; exact toNat_target nnn
  | call nnn => rw [execCall_next nnn s t h]; exact toNat_target nnn
  | ret => exact toNat_pc_of_ret h
  | jpV0 nnn => cases h; exact toNat_target_add nnn _
  | seImm x nn | seReg x y | sneImm x nn | sneReg x y => cases h; exact toNat_skipIf_pc s _ (by simp)
  | skp x =>
    rw [execSkp_next x s t h, key_lowNibble]
    exact toNat_skipIf_pc s _ rfl
  | sknp x =>
    rw [execSknp_next x s t h, key_lowNibble]
    exact toNat_skipIf_pc s _ (by cases s.keys.toList.getD ((s.reg x).toNat % 16) false <;> rfl)
  | ldVxK x => exact toNat_pc_of_ldVxK h
  | drw x y n =>
    obtain ⟨g, rfl, -⟩ := exec_draw_next _ s t (.inl ⟨x, y, n, rfl⟩) h
    exact toNat_add_two s.pc
  | drw16 x y =>
    obtain ⟨g, rfl, -⟩ := exec_draw_next _ s t (.inr ⟨x, y, rfl⟩) h
    exact toNat_add_two s.pc
  | scd n | scr | scl | low | high | exitReq | storeRpl x | loadRpl x =>
    obtain ⟨-, rfl⟩ | ⟨-, rfl⟩ := next_of_gate h <;> exact toNat_add_two s.pc
  | ldF x => rw [execLdF_next x s t h]; exact toNat_add_two s.pc
  | ldHf x =>
    obtain ⟨-, ht⟩ | ⟨-, ht⟩ := execLdHf_next x s t h <;> rw [ht] <;> exact toNat_add_two s.pc
  | ldB x => rw [(execLdB_next x s t h).1]; exact toNat_add_two s.pc
  | storeRegs x => rw [(execStoreRegs_next x s t h).1]; exact toNat_add_two s.pc
  | loadRegs x => rw [(execLoadRegs_next x s t h).1]; exact toNat_add_two s.pc
  | orReg x y | andReg x y | xorReg x y => cases h; rw [setLogic_advance_pc]; exact toNat_add_two s.pc
  | cls | sys nnn | ldImm x nn | addImm x nn | ldReg x y | addReg x y | subReg x y | shr x y | subn x y | shl x y
  | ldI nnn | rnd x nn | ldVxDt x | ldDtVx x | ldStVx x | addI x => cases h; exact toNat_add_two s.pc

end Sys2Proof.Machine
end


section
/-! The register loads, RND and the timer copies (41_alu.md R141 to R143, R152; 44_keypad_timers.md R184 to R186),
and the key wait (R183): one register or one timer, and PC. -/

namespace Sys2Proof.Machine

/-- An instruction that writes one register and advances PC (R141 to R143, R152, R184). -/
theorem exists_next_of_setReg {i : Instr} {s : State} {x : Nibble} {b : Byte}
    (hexec : exec i s = .next (s.advance.setReg x b)) :
    ∃ t, exec i s = .next t ∧ t.reg x = b ∧ t.pc = s.pc + 2#16 ∧ RegFrame s t [x] :=
  ⟨_, hexec, by rw [State.reg_setReg, if_pos rfl], rfl,
    regFrame_of_regsKept (regsKept_setReg s.advance x b) rfl⟩

theorem exec_ldImm (x : Nibble) (nn : Byte) (s : State) :
    exec (.ldImm x nn) s = .next (s.advance.setReg x nn) := rfl

theorem exec_addImm (x : Nibble) (nn : Byte) (s : State) :
    exec (.addImm x nn) s = .next (s.advance.setReg x (s.reg x + nn)) := rfl

theorem exec_ldReg (x y : Nibble) (s : State) :
    exec (.ldReg x y) s = .next (s.advance.setReg x (s.reg y)) := rfl

theorem exec_rnd (x : Nibble) (nn : Byte) (s : State) :
    exec (.rnd x nn) s = .next (s.advance.setReg x (s.rnd &&& nn)) := rfl

theorem exec_ldVxDt (x : Nibble) (s : State) : exec (.ldVxDt x) s = .next (s.advance.setReg x s.dt) := rfl

theorem exec_ldDtVx (x : Nibble) (s : State) : exec (.ldDtVx x) s = .next { s.advance with dt := s.reg x } := rfl

theorem exec_ldStVx (x : Nibble) (s : State) : exec (.ldStVx x) s = .next { s.advance with st := s.reg x } := rfl

/-- Settles O27: each of the three is one register write; the 8-bit sum is the sum mod 256. -/
theorem loadsAndImmediateAddWriteOneRegister : Obligations.LoadsAndImmediateAddWriteOneRegister := by
  intro s x y nn
  refine ⟨exists_next_of_setReg (exec_ldImm x nn s), ?_, exists_next_of_setReg (exec_ldReg x y s),
    fun v => ⟨decode_XI rfl, decode_XI rfl, decode_XYN rfl⟩⟩
  obtain ⟨t, ht, hres, hpc, hframe⟩ := exists_next_of_setReg (exec_addImm x nn s)
  exact ⟨t, ht, by rw [hres, BitVec.toNat_add], hpc, hframe⟩

/-- Settles O32: RND is one register write, of the masked byte. -/
theorem randomByteIsMasked : Obligations.RandomByteIsMasked := by
  intro s x nn
  exact ⟨exists_next_of_setReg (exec_rnd x nn s), fun v => decode_XI rfl⟩

theorem tone_iff (s : State) : s.tone = true ↔ s.st ≠ 0#8 :=
  bne_iff_ne

/-- Settles O58: LD Vx,DT is one register write, the other two write one timer. -/
theorem timersAreCopied : Obligations.TimersAreCopied := by
  intro s x
  exact ⟨exists_next_of_setReg (exec_ldVxDt x s),
    ⟨_, exec_ldDtVx x s, rfl, rfl, fun _ _ => rfl, fun _ _ => rfl, rfl⟩,
    ⟨_, exec_ldStVx x s, rfl, tone_iff _, rfl, fun _ _ => rfl, fun _ _ => rfl, rfl⟩,
    fun v => ⟨decode_XI rfl, decode_XI rfl, decode_XI rfl⟩⟩

/-! ### The key wait -/

theorem firstKey_eq_none {s : State} (h : ∀ k : Fin 16, s.keys[k] = false) : s.firstKey = none :=
  List.find?_eq_none.mpr fun k _ => Bool.eq_false_iff.mp (h k)

/-- The first key down in the scan order 0 to 15 (R183, decision D18). -/
theorem firstKey_eq_some {s : State} {k : Fin 16} (hk : s.keys[k] = true)
    (hbelow : ∀ j : Fin 16, j < k → s.keys[j] = false) : s.firstKey = some k := by
  refine List.find?_eq_some_iff_getElem.mpr ⟨hk, k.val, by simp, by simp, fun j hj => ?_⟩
  simpa [State.key] using hbelow ⟨j, hj.trans k.isLt⟩ hj

section
variable {s : State} (x : Nibble)

theorem exec_ldVxK_of_none (h : s.kwait = none) : exec (.ldVxK x) s = .next { s with kwait := s.firstKey } := by
  simp only [exec, execLdVxK, h]

theorem exec_ldVxK_of_down {k : Fin 16} (h : s.kwait = some k) (hk : s.keys[k] = true) :
    exec (.ldVxK x) s = .next s := by
  simp only [exec, execLdVxK, h, State.key, hk, if_true]

theorem exec_ldVxK_of_up {k : Fin 16} (h : s.kwait = some k) (hk : s.keys[k] = false) :
    exec (.ldVxK x) s = .next { s.advance.setReg x (BitVec.ofNat 8 k.val) with kwait := none } := by
  simp only [exec, execLdVxK, h, State.key, hk, Bool.false_eq_true, if_false]

end

/-- Settles O57: the three meanings of the key wait, by the latch and the latched key's level. -/
theorem keyWaitLatchesThenCompletesOnRelease : Obligations.KeyWaitLatchesThenCompletesOnRelease := by
  intro s x
  refine ⟨fun hnone hup => ?_, fun k hnone hdown hbelow => ?_, fun k => exec_ldVxK_of_down x, fun k hlatch hup => ?_,
    fun v => decode_XI rfl⟩
  · rw [exec_ldVxK_of_none x hnone, firstKey_eq_none hup, ← hnone]
  · rw [exec_ldVxK_of_none x hnone, firstKey_eq_some hdown hbelow]
  · refine ⟨_, exec_ldVxK_of_up x hlatch hup, ?_, rfl, rfl, regsKept_setReg s x _, fun _ _ => rfl, rfl⟩
    have hreg : (s.setReg x (BitVec.ofNat 8 k.val)).reg x = BitVec.ofNat 8 k.val := by
      rw [State.reg_setReg, if_pos rfl]
    exact (congrArg BitVec.toNat hreg).trans (Nat.mod_eq_of_lt (k.isLt.trans (by decide)))

end Sys2Proof.Machine
end

section
/-! Control transfer (40_control_flow.md R120, R122 to R129): SYS, JP V0, CALL, RET and the register skips. -/

namespace Sys2Proof.Machine

/-! ### SYS and JP V0 -/

theorem exec_sys (nnn : Addr12) (s : State) : exec (.sys nnn) s = .next (s.sysNotice nnn) := rfl

theorem sysTaken_base {nnn : Addr12} (hcls : nnn ≠ 0x0E0#12) (hret : nnn ≠ 0x0EE#12) :
    sysTaken .base nnn = false := by
  simp [sysTaken, hcls, hret]

theorem sysTaken_extended {nnn : Addr12} (hcls : nnn ≠ 0x0E0#12) (hret : nnn ≠ 0x0EE#12)
    (hscd : nnn.toNat / 16 ≠ 0x0C) (hrest : ¬(0x0FB ≤ nnn.toNat ∧ nnn.toNat ≤ 0x0FF)) :
    sysTaken .extended nnn = false := by
  have hscd' : nnn.extractLsb' 4 8 ≠ 0x0C#8 := by
    intro h
    have := congrArg BitVec.toNat h
    simp only [BitVec.extractLsb'_toNat, Nat.shiftRight_eq_div_pow, BitVec.toNat_ofNat] at this
    have := nnn.isLt
    omega
  have hne (c : Addr12) (hc : 0x0FB ≤ c.toNat ∧ c.toNat ≤ 0x0FF) : nnn ≠ c := fun h => hrest (h ▸ hc)
  simp [sysTaken, hcls, hret, hscd', hne]

/-- Settles O39: SYS is its notice, and decodes from every word of opcode 0 that no other row takes. -/
theorem sysOnlyGivesANotice : Obligations.SysOnlyGivesANotice :=
  ⟨fun s nnn => exec_sys nnn s, fun _ hcls hret => decode_sys (sysTaken_base hcls hret),
    fun _ hcls hret hscd hrest => decode_sys (sysTaken_extended hcls hret hscd hrest)⟩

theorem exec_jpV0 (nnn : Addr12) (s : State) :
    exec (.jpV0 nnn) s = .next { s with pc := nnn.setWidth 16 + (s.jumpOffset nnn).setWidth 16 } := rfl

theorem jumpOffset_base {s : State} (hbase : s.cfg.variant = .base) (nnn : Addr12) :
    s.jumpOffset nnn = s.reg 0#4 := by
  simp only [State.jumpOffset, hbase]

theorem jumpOffset_extended {s : State} (hext : s.cfg.variant = .extended) (nnn : Addr12) :
    s.jumpOffset nnn = s.reg (nnn.extractLsb' 8 4) := by
  simp only [State.jumpOffset, hext]

/-- Settles O34: the sum cannot reach 2^16, so it is the sum of the values. -/
theorem jumpWithOffsetAddsARegister : Obligations.JumpWithOffsetAddsARegister := by
  intro s nnn
  refine ⟨⟨_, exec_jpV0 nnn s, pcFrame_with_pc s _, fun hbase => ?_, fun hext => ?_⟩, fun v => ?_⟩
  · rw [toNat_target_add, jumpOffset_base hbase]
  · rw [toNat_target_add, jumpOffset_extended hext]
  · exact decode_of_decodeFields (by rw [fields_A]; rfl)

/-! ### CALL and RET -/

theorem exec_call (nnn : Addr12) (s : State) :
    exec (.call nnn) s = orRaise (s.push (s.pc + 2#16)) fun t => .next { t with pc := nnn.setWidth 16 } := rfl

theorem exec_ret (s : State) : exec .ret s = orRaise s.pop fun p => .next { p.2 with pc := p.1 } := rfl

/-- CALL with a free slot (R122, R27). -/
theorem exec_call_of_free (nnn : Addr12) {s : State} (h : s.sp.val < 16) :
    exec (.call nnn) s = .next { s with
      stk := s.stk.set s.sp.val (s.pc + 2#16) h, sp := ⟨s.sp.val + 1, Nat.succ_lt_succ h⟩
      pc := nnn.setWidth 16 } := by
  rw [exec_call, State.push_ok s _ h, orRaise_ok]

/-- Settles O35: the push by the number of slots in use and the policy, then the jump. -/
theorem callPushesTheReturnAddress : Obligations.CallPushesTheReturnAddress := by
  intro s nnn
  refine ⟨fun k hk => ?_, fun hfull hp => ?_, fun hfull hp => ?_, fun v => ?_⟩
  · have hfree : s.sp.val < 16 := hk ▸ k.isLt
    refine ⟨_, exec_call_of_free nnn hfree, toNat_target nnn, ?_, congrArg (· + 1) hk, fun j hj => ?_,
      fun _ _ => rfl, fun _ _ => rfl, rfl⟩
    · simp [hk]
    · have hne : s.sp.val ≠ j.val := fun h => hj (Fin.ext (h.symm.trans hk))
      simp [hne]
  · simp only [exec_call, State.push_full s _ hfull, hp, orRaise_error]
  · refine ⟨{ s with pc := nnn.setWidth 16 }, ?_, toNat_target nnn, pcFrame_with_pc s _⟩
    simp only [exec_call, State.push_full s _ hfull, hp, orRaise_ok]
  · exact decode_of_decodeFields (by rw [fields_A]; rfl)

/-- RET with a slot in use (R123, R28). -/
theorem exec_ret_of_used {s : State} {k : Fin 16} (h : s.sp.val = k.val + 1) :
    exec .ret s = .next { s with sp := k.castSucc, pc := s.stk[k] } := by
  obtain ⟨j, sp, hj, hsp, hpop⟩ := s.pop_ok (h ▸ Nat.succ_pos _)
  obtain rfl : j = k := Fin.ext (by omega)
  obtain rfl : sp = j.castSucc := Fin.ext hsp
  rw [exec_ret, hpop, orRaise_ok]

/-- Settles O36: the pop by the number of slots in use and the policy, its value into PC. -/
theorem returnPopsIntoPc : Obligations.ReturnPopsIntoPc := by
  intro s
  refine ⟨fun k hk => ?_, fun hempty hp => ?_, fun hempty hp => ?_, fun v => ?_⟩
  · exact ⟨_, exec_ret_of_used hk, rfl, rfl, fun _ _ => rfl, fun _ _ => rfl, rfl⟩
  · simp only [exec_ret, State.pop_empty s hempty, hp, orRaise_error]
  · refine ⟨{ s with pc := 0x0000#16 }, ?_, rfl, pcFrame_with_pc s _⟩
    simp only [exec_ret, State.pop_empty s hempty, hp, orRaise_ok]
  · rfl

/-- Settles O37: the slot CALL filled is the one RET reads. -/
theorem returnGoesBehindTheCall : Obligations.ReturnGoesBehindTheCall := by
  intro s t u nnn hfree hcall hstk hsp
  rw [exec_call_of_free nnn hfree] at hcall
  cases hcall
  have hused : u.sp.val = (⟨s.sp.val, hfree⟩ : Fin 16).val + 1 := congrArg Fin.val hsp
  refine ⟨_, exec_ret_of_used hused, ?_, rfl, hstk⟩
  simp [hstk]

/-! ### The register skips -/

theorem exec_seImm (x : Nibble) (nn : Byte) (s : State) :
    exec (.seImm x nn) s = .next (s.skipIf (s.reg x == nn)) := rfl

theorem exec_sneImm (x : Nibble) (nn : Byte) (s : State) :
    exec (.sneImm x nn) s = .next (s.skipIf (s.reg x != nn)) := rfl

theorem exec_seReg (x y : Nibble) (s : State) :
    exec (.seReg x y) s = .next (s.skipIf (s.reg x == s.reg y)) := rfl

theorem exec_sneReg (x y : Nibble) (s : State) :
    exec (.sneReg x y) s = .next (s.skipIf (s.reg x != s.reg y)) := rfl

theorem exists_next_of_skip_eq {i : Instr} {s : State} {a b : Byte} (hexec : exec i s = .next (s.skipIf (a == b))) :
    ∃ t, exec i s = .next t ∧ PcFrame s t ∧ t.pc = if a = b then s.pc + 4#16 else s.pc + 2#16 := by
  simpa only [beq_iff_eq] using exists_next_of_skipIf hexec

theorem exists_next_of_skip_ne {i : Instr} {s : State} {a b : Byte} (hexec : exec i s = .next (s.skipIf (a != b))) :
    ∃ t, exec i s = .next t ∧ PcFrame s t ∧ t.pc = if a = b then s.pc + 2#16 else s.pc + 4#16 := by
  simpa only [bne_iff_ne, ne_eq, ite_not] using exists_next_of_skipIf hexec

/-- Settles O38: each skip is `State.skipIf` of its comparison. -/
theorem skipsStepOverOneInstruction : Obligations.SkipsStepOverOneInstruction := by
  intro s x y nn
  exact ⟨exists_next_of_skip_eq (exec_seImm x nn s), exists_next_of_skip_ne (exec_sneImm x nn s),
    exists_next_of_skip_eq (exec_seReg x y s), exists_next_of_skip_ne (exec_sneReg x y s),
    fun v => ⟨decode_XI rfl, decode_XI rfl, decode_XYN rfl, decode_XYN rfl⟩⟩

end Sys2Proof.Machine
end


section
/-! The index register and LD B (42_index_memory.md R160 to R165; 45_extended.md R199): the glyph addresses, the
digits in memory, and the block transfers one after the other. -/

namespace Sys2Proof.Machine

/-! ### `I` -/

/-- An instruction that writes `I` and advances PC. -/
theorem exists_next_of_idx {i : Instr} {s : State} {a : Word}
    (hexec : exec i s = .next { s.advance with idx := a }) :
    ∃ t, exec i s = .next t ∧ t.idx.toNat = a.toNat ∧ t.pc = s.pc + 2#16 ∧ IndexFrame s t :=
  ⟨_, hexec, rfl, rfl, fun _ _ => rfl, fun _ _ => rfl, rfl⟩

theorem exec_ldI (nnn : Addr12) (s : State) :
    exec (.ldI nnn) s = .next { s.advance with idx := nnn.setWidth 16 } := rfl

theorem exec_addI (x : Nibble) (s : State) :
    exec (.addI x) s = .next { s.advance with idx := s.idx + (s.reg x).setWidth 16 } := rfl

/-- Settles O40: the address extended by zeros keeps its value, and the 16-bit sum is the sum mod 2^16. -/
theorem indexIsLoadedAndAdded : Obligations.IndexIsLoadedAndAdded := by
  intro s x nnn
  have hadd : (s.idx + (s.reg x).setWidth 16).toNat = (s.idx.toNat + (s.reg x).toNat) % 65536 := by
    rw [BitVec.toNat_add, BitVec.toNat_setWidth_of_le (by decide)]
  have hload := exists_next_of_idx (exec_ldI nnn s)
  have hsum := exists_next_of_idx (exec_addI x s)
  rw [toNat_target] at hload
  rw [hadd] at hsum
  exact ⟨hload, hsum, fun v => ⟨decode_of_decodeFields (by rw [fields_A]; rfl), decode_XI rfl⟩⟩

/-! ### The glyph addresses -/

theorem exec_ldF (x : Nibble) (s : State) :
    exec (.ldF x) s = orRaise (s.digit x) fun d =>
      .next { s.advance with idx := BitVec.ofNat 16 (fontBase + 5 * d.toNat) } := rfl

theorem exec_ldHf_extended {s : State} (hext : s.cfg.variant = .extended) (x : Nibble) :
    exec (.ldHf x) s = orRaise (s.digit x) fun d =>
      .next { s.advance with idx := s.cfg.bigFontBase + BitVec.ofNat 16 (10 * d.toNat) } := by
  simp only [exec, execLdHf, hext]

theorem toNat_lowNibble (b : Byte) : (b.extractLsb' 0 4).toNat = b.toNat % 16 := by
  rw [BitVec.extractLsb'_toNat, Nat.shiftRight_zero]

/-- The last small glyph lies below 2^16 (R162). -/
theorem toNat_glyphAddress (b : Byte) :
    (BitVec.ofNat 16 (fontBase + 5 * (b.extractLsb' 0 4).toNat)).toNat = 0x050 + 5 * (b.toNat % 16) := by
  rw [toNat_lowNibble, BitVec.toNat_ofNat, fontBase]
  omega

theorem toNat_bigGlyphAddress (base : Word) (b : Byte) :
    (base + BitVec.ofNat 16 (10 * (b.extractLsb' 0 4).toNat)).toNat =
      (base.toNat + 10 * (b.toNat % 16)) % 65536 := by
  rw [toNat_lowNibble, BitVec.toNat_add, BitVec.toNat_ofNat]
  omega

/-- Settles O41: a usable digit is the low four bits, and both addresses are linear in it; above 15 the digit
raises. -/
theorem glyphAddressesAreComputed : Obligations.GlyphAddressesAreComputed := by
  intro s x
  refine ⟨fun hok => ⟨?_, fun hext => ?_⟩, fun hbig hp => ⟨?_, fun hext => ?_⟩, fun v => decode_XI rfl,
    decode_XI rfl⟩
  · rw [← toNat_glyphAddress]
    exact exists_next_of_idx (by rw [exec_ldF, State.digit_ok s x hok, orRaise_ok])
  · rw [← toNat_bigGlyphAddress]
    exact exists_next_of_idx (by rw [exec_ldHf_extended hext, State.digit_ok s x hok, orRaise_ok])
  · rw [exec_ldF, digit_error_of_lt hbig hp, orRaise_error]
  · rw [exec_ldHf_extended hext, digit_error_of_lt hbig hp, orRaise_error]

/-! ### LD B -/

theorem exec_ldB (x : Nibble) (s : State) :
    exec (.ldB x) s = orRaise (s.writeBytes s.idx.toNat (bcdDigits (s.reg x))) fun t => .next t.advance := rfl

/-- LD B in reach: the new memory holds the three digits in their places and every other byte as before. -/
theorem exec_ldB_of_reaches {s : State} {x : Nibble} (h : s.reaches 3) :
    ∃ m : Mem, exec (.ldB x) s = .next { s with mem := m, pc := s.pc + 2#16 } ∧
      (∀ k, k < 3 → m.read ((s.idx.toNat + k) % memSize) = (bcdDigits (s.reg x)).getD k 0#8) ∧
      (∀ a, a ∉ s.places 3 → m.read a = s.mem.read a) := by
  obtain ⟨m, hw, hin, hout⟩ :=
    State.writeBytes_ok s s.idx.toNat (bcdDigits (s.reg x)) h (bcdDigits_fits _)
  refine ⟨m, ?_, hin, fun a ha => hout a fun k hk hka => ha ?_⟩
  · rw [exec_ldB, hw, orRaise_ok]
    rfl
  · exact List.mem_map.mpr ⟨k, List.mem_range.mpr hk, hka⟩

/-- A byte's digits are bytes (R163). -/
theorem toNat_digit {n : Nat} (h : n < 256) : (BitVec.ofNat 8 n).toNat = n :=
  Nat.mod_eq_of_lt h

/-- Settles O42: the three places read as the digits written there. -/
theorem bcdDigitsAreStored : Obligations.BcdDigitsAreStored := by
  intro s x hreach
  obtain ⟨m, ht, hin, hout⟩ := exec_ldB_of_reaches (x := x) hreach
  have hlt := (s.reg x).isLt
  refine ⟨_, ht, ?_, ?_, ?_, rfl, rfl, fun _ _ => rfl, hout, rfl⟩
  · exact (congrArg BitVec.toNat (hin 0 (by decide))).trans (toNat_digit (by omega))
  · exact (congrArg BitVec.toNat (hin 1 (by decide))).trans (toNat_digit (by omega))
  · exact (congrArg BitVec.toNat (hin 2 (by decide))).trans (toNat_digit (by omega))

theorem exec_ldB_beyond {s : State} (x : Nibble) (hp : s.cfg.addrPolicy = .fault)
    (h : memSize < s.idx.toNat + 3) :
    exec (.ldB x) s = .fault (.addressRange (max s.idx.toNat memSize) s.pc) := by
  have hne : bcdDigits (s.reg x) ≠ [] := List.cons_ne_nil _ _
  rw [exec_ldB, State.writeBytes_error s _ _ h hne hp, orRaise_error]

/-! ### A store, then a load -/

/-- A transfer is in reach, or it is under the policy `fault` and ends above 0xFFF (R64). -/
theorem reaches_or_beyond (s : State) (n : Nat) :
    s.reaches n ∨ s.cfg.addrPolicy = .fault ∧ memSize < s.idx.toNat + n := by
  unfold State.reaches
  cases s.cfg.addrPolicy with
  | fault => simp; omega
  | wrap12 => simp

theorem reaches_of_storeRegs {s t : State} {x : Nibble} (h : exec (.storeRegs x) s = .next t) :
    s.reaches (x.toNat + 1) := by
  obtain hreach | ⟨hp, hbeyond⟩ := reaches_or_beyond s (x.toNat + 1)
  · exact hreach
  · simp only [memSize] at hbeyond
    rw [exec_storeRegs_beyond (by omega) hp] at h
    cases h

/-- Settles O46: a store that completes was in reach, so the load is too, and reads the places the store wrote. -/
theorem blockStoreThenLoadRoundTrips : Obligations.BlockStoreThenLoadRoundTrips := by
  intro s t u x hstore hmem hidx hcfg
  have hreach := reaches_of_storeRegs hstore
  obtain ⟨m, ht, hin, -⟩ := exec_storeRegs_of_reaches hreach
  rw [ht] at hstore
  cases hstore
  have hreach' : u.reaches (x.toNat + 1) := by
    rw [State.reaches, hidx, hcfg]
    exact hreach
  obtain ⟨r, hr, -, hload, -⟩ := exec_loadRegs_of_reaches hreach'
  refine ⟨r, hr, fun k hk => ?_⟩
  rw [hload k hk, hidx, hmem]
  exact hin k hk

end Sys2Proof.Machine
end

section
/-! CLS, LOW, HIGH and EXIT (43_display.md R171; 45_extended.md R194 to R196). -/

namespace Sys2Proof.Machine

theorem exec_cls (s : State) : exec .cls s = .next { s.advance with fb := s.fb.clear } := rfl

/-- Settles O47: CLS is the cleared grid, of the same dimensions. -/
theorem clsClearsEveryPixel : Obligations.ClsClearsEveryPixel := by
  intro s
  exact ⟨⟨_, exec_cls s, s.fb.get_clear, rfl, pixelFrame_advance_with_fb s rfl rfl⟩, fun v => rfl⟩

section
variable {s : State} (hext : s.cfg.variant = .extended)
include hext

theorem exec_low_extended :
    exec .low s = .next { s.advance with hires := false, fb := Framebuffer.replace 64 32 } := by
  simp only [exec, execLow, hext]

theorem exec_high_extended :
    exec .high s = .next { s.advance with hires := true, fb := Framebuffer.replace 128 64 } := by
  simp only [exec, execHigh, hext]

theorem exec_exitReq_extended :
    exec .exitReq s = .next { s.advance with halted := true, out := { s.out with exitReq := true } } := by
  simp only [exec, execExit, hext]

end

/-- Settles O53: both write an empty grid of their size, whatever the grid was. -/
theorem resolutionSwitchReplacesTheGrid : Obligations.ResolutionSwitchReplacesTheGrid := by
  intro s hext
  exact ⟨⟨_, exec_low_extended hext, rfl, rfl, rfl, Framebuffer.get_replace 64 32, rfl, fun _ _ => rfl, fun _ _ => rfl,
      rfl⟩,
    ⟨_, exec_high_extended hext, rfl, rfl, rfl, Framebuffer.get_replace 128 64, rfl, fun _ _ => rfl, fun _ _ => rfl,
      rfl⟩⟩

/-- Settles O54: the extended branch of EXIT is that next state. -/
theorem exitSignalsAndHalts : Obligations.ExitSignalsAndHalts :=
  fun _ hext => exec_exitReq_extended hext

end Sys2Proof.Machine
end


section
/-! The draws (43_display.md R172, R173; 45_extended.md R197): the pixels of a sprite by its bits, what a draw of
given pixels does, and that the same draw a second time undoes the first. -/

namespace Sys2Proof.Machine

/-! ### The rows and pixels of a sprite -/

/-- The `n` bytes from `I` on, as a transfer in reach reads them (R64, R166). -/
def State.bytesAt (s : State) (n : Nat) : List Byte :=
  (List.range n).map fun k => s.mem.read ((s.idx.toNat + k) % memSize)

theorem readBytes_of_reaches {s : State} {n : Nat} (h : s.reaches n) :
    s.readBytes s.idx.toNat n = .ok (s.bytesAt n) :=
  State.readBytes_ok s _ n h

theorem bytesAt_length (s : State) (n : Nat) : (s.bytesAt n).length = n := by
  rw [State.bytesAt, List.length_map, List.length_range]

theorem bytesAt_getD (s : State) {n r : Nat} (h : r < n) :
    (s.bytesAt n).getD r 0#8 = s.mem.read ((s.idx.toNat + r) % memSize) := by
  rw [State.bytesAt, List.getD_eq_getElem?_getD, List.getElem?_map, List.getElem?_range h]
  rfl

/-- A pixel is one of a sprite's where it stands right of and below the corner on a set bit. -/
theorem mem_spritePixels_iff {k : Nat} (x0 y0 : Nat) (rows : List (BitVec k)) (cx cy : Nat) :
    (⟨cx, cy⟩ : Pixel) ∈ spritePixels x0 y0 rows ↔
      x0 ≤ cx ∧ y0 ≤ cy ∧ (rows.getD (cy - y0) 0#k).getMsbD (cx - x0) = true := by
  rw [mem_spritePixels]
  constructor
  · rintro ⟨r, c, hr, hbit, heq⟩
    obtain ⟨rfl, rfl⟩ : cx = x0 + c ∧ cy = y0 + r := by simpa using heq
    rw [Nat.add_sub_cancel_left, Nat.add_sub_cancel_left, List.getD_eq_getElem _ _ hr]
    exact ⟨Nat.le_add_right _ _, Nat.le_add_right _ _, hbit⟩
  · rintro ⟨hx, hy, hbit⟩
    have hr : cy - y0 < rows.length := by
      by_contra hr
      rw [List.getD_eq_default _ _ (Nat.le_of_not_lt hr)] at hbit
      simp at hbit
    rw [List.getD_eq_getElem _ _ hr] at hbit
    exact ⟨cy - y0, cx - x0, hr, hbit, by simp only [Pixel.mk.injEq]; omega⟩

/-- The set bits of DRW's sprite, not clipped (R172). -/
def State.sprite8 (s : State) (x y : Nibble) (n : Nat) : List Pixel :=
  spritePixels (s.drawX x) (s.drawY y) (s.bytesAt n)

/-- The set bits of the 16 by 16 sprite, its edge not yet looked at (R197). -/
def State.sprite16 (s : State) (x y : Nibble) : List Pixel :=
  spritePixels (s.drawX x) (s.drawY y) (pairRows (s.bytesAt 32))

theorem bytesAt_bit (s : State) (n r c : Nat) :
    ((s.bytesAt n).getD r 0#8).getMsbD c = (decide (r < n) && s.spriteBit8 r c) := by
  by_cases hr : r < n
  · rw [bytesAt_getD s hr, State.spriteBit8, BitVec.getMsbD, decide_eq_true hr, Bool.true_and]
  · rw [List.getD_eq_default _ _ (by rw [bytesAt_length]; omega), decide_eq_false hr]
    simp

theorem pairRows_bytesAt_length (s : State) : (pairRows (s.bytesAt 32)).length = 16 :=
  pairRows_length _ 16 (bytesAt_length s 32)

theorem pairRows_bytesAt_bit (s : State) (r c : Nat) :
    ((pairRows (s.bytesAt 32)).getD r 0#16).getMsbD c = s.spriteBit16 r c := by
  by_cases hr : r < 16
  · rw [pairRows_getD _ _ (by rw [bytesAt_length]; omega), bytesAt_getD s (by omega), bytesAt_getD s (by omega),
      State.spriteBit16, BitVec.getMsbD, decide_eq_true hr, Bool.true_and]
  · rw [List.getD_eq_default _ _ (by rw [pairRows_bytesAt_length]; omega), State.spriteBit16, decide_eq_false hr]
    simp

theorem mem_sprite8_iff (s : State) (x y : Nibble) (n cx cy : Nat) :
    (⟨cx, cy⟩ : Pixel) ∈ s.sprite8 x y n ↔ s.covers8 x y n cx cy = true := by
  rw [State.sprite8, mem_spritePixels_iff, bytesAt_bit]
  simp only [State.covers8, Bool.and_eq_true, decide_eq_true_eq]
  constructor
  · rintro ⟨hx, hy, hr, hbit⟩
    exact ⟨⟨⟨hx, hy⟩, by omega⟩, hbit⟩
  · rintro ⟨⟨⟨hx, hy⟩, hr⟩, hbit⟩
    exact ⟨hx, hy, by omega, hbit⟩

theorem mem_sprite16_iff (s : State) (x y : Nibble) (cx cy : Nat) :
    (⟨cx, cy⟩ : Pixel) ∈ s.sprite16 x y ↔ s.covers16 x y cx cy = true := by
  rw [State.sprite16, mem_spritePixels_iff, pairRows_bytesAt_bit]
  simp only [State.covers16, Bool.and_eq_true, decide_eq_true_eq, and_assoc]

/-- A pixel of the 16 by 16 sprite lies in the rectangle at its corner. -/
theorem sprite16_bounds {s : State} {x y : Nibble} {p : Pixel} (h : p ∈ s.sprite16 x y) :
    s.drawX x ≤ p.cx ∧ p.cx < s.drawX x + 16 ∧ s.drawY y ≤ p.cy ∧ p.cy < s.drawY y + 16 := by
  have hb := spritePixels_bounds _ _ _ p h
  rwa [pairRows_bytesAt_length] at hb

/-! ### A draw of given pixels -/

/-- The pixels `ps` are those of the grid that `covers` names, each once. -/
structure Plots (fb : Framebuffer) (ps : List Pixel) (covers : Nat → Nat → Bool) : Prop where
  nodup : ps.Nodup
  mem_iff : ∀ cx cy, (⟨cx, cy⟩ : Pixel) ∈ ps ↔ (cx < fb.w ∧ cy < fb.h) ∧ covers cx cy = true

theorem drawFrame_drawn (s : State) (ps : List Pixel) : DrawFrame s (s.drawn (s.fb.draw ps)) := by
  obtain ⟨hw, hh⟩ := Framebuffer.draw_dims s.fb ps
  exact ⟨regsKept_setReg s flagReg _, fun _ _ => rfl, hw, hh, rfl⟩

theorem drawn_reg_flagReg (s : State) (g : Framebuffer × Bool) : (s.drawn g).reg flagReg = flagByte g.2 := by
  have h := s.reg_setReg flagReg flagReg (flagByte g.2)
  rwa [if_pos rfl] at h

/-- The draw flips the pixels it plots and reports whether one of them was set (R172). -/
theorem draws_drawn {s : State} {ps : List Pixel} {covers : Nat → Nat → Bool} (h : Plots s.fb ps covers) :
    Draws s (s.drawn (s.fb.draw ps)) covers := by
  obtain ⟨hget, hhit, -, -⟩ := Framebuffer.draw_spec s.fb ps h.nodup
  refine ⟨fun cx cy hx hy => ?_, ?_, fun hclear => ?_⟩
  · refine (hget cx cy).trans (congrArg _ ?_)
    rw [Bool.eq_iff_iff, decide_eq_true_eq, h.mem_iff]
    exact and_iff_right ⟨hx, hy⟩
  · rintro ⟨cx, cy, hx, hy, hcov, hset⟩
    rw [drawn_reg_flagReg, hhit, List.any_eq_true.mpr ⟨_, (h.mem_iff cx cy).mpr ⟨⟨hx, hy⟩, hcov⟩, hset⟩]
    rfl
  · have hnone : (ps.any fun p => s.fb.get p.cx p.cy) = false := by
      rw [List.any_eq_false]
      intro p hp
      obtain ⟨⟨hx, hy⟩, hcov⟩ := (h.mem_iff p.cx p.cy).mp hp
      exact Bool.eq_false_iff.mp (hclear _ _ hx hy hcov)
    rw [drawn_reg_flagReg, hhit, hnone]
    rfl

theorem exists_next_of_drawn {i : Instr} {s : State} {ps : List Pixel} {covers : Nat → Nat → Bool}
    (hexec : exec i s = .next (s.drawn (s.fb.draw ps))) (h : Plots s.fb ps covers) :
    ∃ t, exec i s = .next t ∧ Draws s t covers ∧ t.pc = s.pc + 2#16 ∧ DrawFrame s t :=
  ⟨_, hexec, draws_drawn h, rfl, drawFrame_drawn s ps⟩

/-! ### DRW -/

theorem drawRows_of_reaches {s : State} {n : Nat} (x y : Nibble) (h : s.reaches n) :
    s.drawRows x y n = .next (s.drawn (s.fb.draw (s.fb.clip (s.sprite8 x y n)))) := by
  rw [State.drawRows, readBytes_of_reaches h, orRaise_ok]
  rfl

theorem drawRows_beyond {s : State} {n : Nat} (x y : Nibble) (hp : s.cfg.addrPolicy = .fault) (hn : 0 < n)
    (h : memSize < s.idx.toNat + n) :
    s.drawRows x y n = .fault (.addressRange (max s.idx.toNat memSize) s.pc) := by
  rw [State.drawRows, State.readBytes_error s _ _ h hn hp, orRaise_error]

theorem plots_clip_sprite8 (s : State) (x y : Nibble) (n : Nat) :
    Plots s.fb (s.fb.clip (s.sprite8 x y n)) (s.covers8 x y n) where
  nodup := Framebuffer.clip_nodup _ _ (spritePixels_nodup _ _ _)
  mem_iff cx cy := by rw [Framebuffer.mem_clip, mem_sprite8_iff, and_comm]

theorem exec_drw {s : State} {x y n : Nibble} (h : n ≠ 0#4 ∨ s.cfg.variant = .base) :
    exec (.drw x y n) s = s.drawRows x y n.toNat := by
  have hrows : ¬(n = 0#4 ∧ s.cfg.variant = .extended) := by
    rintro ⟨rfl, hext⟩
    obtain hn | hbase := h
    · exact hn rfl
    · rw [hext] at hbase; cases hbase
  simp only [exec, execDrw, if_neg hrows]

theorem exec_drw16_extended {s : State} (hext : s.cfg.variant = .extended) (x y : Nibble) :
    exec (.drw16 x y) s = s.draw16 x y := by
  simp only [exec, execDrw16, hext]

theorem exec_drw16_base {s : State} (hbase : s.cfg.variant = .base) (x y : Nibble) :
    exec (.drw16 x y) s = s.drawRows x y 0 := by
  simp only [exec, execDrw16, hbase]

theorem exec_drw_zero_extended {s : State} (hext : s.cfg.variant = .extended) (x y : Nibble) :
    exec (.drw x y 0#4) s = exec (.drw16 x y) s := by
  rw [exec_drw16_extended hext]
  simp only [exec, execDrw, hext, and_self, if_true]

/-- Settles O48: DRW plots the clipped bits of its sprite. -/
theorem drawXorsTheClippedSprite : Obligations.DrawXorsTheClippedSprite := by
  intro s x y n
  refine ⟨fun hrows hreach => ?_, fun hext => exec_drw_zero_extended hext x y⟩
  exact exists_next_of_drawn ((exec_drw hrows).trans (drawRows_of_reaches x y hreach))
    (plots_clip_sprite8 s x y n.toNat)

/-! ### The 16 by 16 draw -/

theorem draw16_of_reaches {s : State} (x y : Nibble) (h : s.reaches 32) :
    s.draw16 x y = orRaise (s.pixels16 (s.drawX x) (s.drawY y) (s.sprite16 x y)) fun ps =>
      .next (s.drawn (s.fb.draw ps)) := by
  rw [State.draw16, readBytes_of_reaches h, orRaise_ok]
  rfl

theorem draw16_beyond {s : State} (x y : Nibble) (hp : s.cfg.addrPolicy = .fault)
    (h : memSize < s.idx.toNat + 32) :
    s.draw16 x y = .fault (.addressRange (max s.idx.toNat memSize) s.pc) := by
  rw [State.draw16, State.readBytes_error s _ _ h (by decide) hp, orRaise_error]

theorem fits16_iff (s : State) (x y : Nibble) :
    s.fits16 x y ↔ s.drawX x + 15 < s.fb.w ∧ s.drawY y + 15 < s.fb.h :=
  Iff.rfl

theorem pixels16_of_fits {s : State} {x y : Nibble} (h : s.fits16 x y) (ps : List Pixel) :
    s.pixels16 (s.drawX x) (s.drawY y) ps = .ok ps :=
  if_pos ((fits16_iff s x y).mp h)

section
variable {s : State} {x y : Nibble} (h : ¬s.fits16 x y) (ps : List Pixel)
include h

theorem pixels16_fault (he : s.cfg.draw16Edge = .fault) :
    s.pixels16 (s.drawX x) (s.drawY y) ps = .error (.framebufferRange (s.drawX x) (s.drawY y) s.pc) := by
  rw [State.pixels16, if_neg (mt (fits16_iff s x y).mpr h), he]

theorem pixels16_drop (he : s.cfg.draw16Edge = .drop) :
    s.pixels16 (s.drawX x) (s.drawY y) ps = .ok (s.fb.clip ps) := by
  rw [State.pixels16, if_neg (mt (fits16_iff s x y).mpr h), he]

theorem pixels16_wrap (he : s.cfg.draw16Edge = .wrap) :
    s.pixels16 (s.drawX x) (s.drawY y) ps = .ok (s.fb.wrap ps) := by
  rw [State.pixels16, if_neg (mt (fits16_iff s x y).mpr h), he]

end

theorem plots_sprite16_of_fits {s : State} {x y : Nibble} (h : s.fits16 x y) :
    Plots s.fb (s.sprite16 x y) (s.covers16 x y) where
  nodup := spritePixels_nodup _ _ _
  mem_iff cx cy := by
    rw [← mem_sprite16_iff]
    refine ⟨fun hp => ⟨?_, hp⟩, And.right⟩
    have hb := sprite16_bounds hp
    obtain ⟨hx, hy⟩ := h
    simp only at hb
    omega

theorem plots_clip_sprite16 (s : State) (x y : Nibble) :
    Plots s.fb (s.fb.clip (s.sprite16 x y)) (s.covers16 x y) where
  nodup := Framebuffer.clip_nodup _ _ (spritePixels_nodup _ _ _)
  mem_iff cx cy := by rw [Framebuffer.mem_clip, mem_sprite16_iff, and_comm]

/-- From a coordinate wrapped round the grid back to the offset from the corner. -/
theorem wrap_sub {w x c : Nat} (hx : x < w) (hc : c < w) : ((x + c) % w + w - x) % w = c := by
  by_cases h : x + c < w
  · rw [Nat.mod_eq_of_lt h, show x + c + w - x = c + w by omega, Nat.add_mod_right, Nat.mod_eq_of_lt hc]
  · rw [Nat.mod_eq_sub_mod (Nat.le_of_not_lt h), Nat.mod_eq_of_lt (show x + c - w < w by omega),
      show x + c - w + w - x = c by omega, Nat.mod_eq_of_lt hc]

/-- The offset from the corner leads to the coordinate again. -/
theorem wrap_add {w x a : Nat} (hx : x < w) (ha : a < w) : (x + (a + w - x) % w) % w = a := by
  by_cases h : x ≤ a
  · rw [show a + w - x = a - x + w by omega, Nat.add_mod_right, Nat.mod_eq_of_lt (show a - x < w by omega),
      show x + (a - x) = a by omega, Nat.mod_eq_of_lt ha]
  · rw [Nat.mod_eq_of_lt (show a + w - x < w by omega), show x + (a + w - x) = a + w by omega, Nat.add_mod_right,
      Nat.mod_eq_of_lt ha]

/-- Which pixels the wrapped sprite plots: the offsets from the corner are taken modulo the dimensions (R197). -/
theorem mem_wrap_sprite16_iff {s : State} {x y : Nibble} (hw : 16 ≤ s.fb.w) (hh : 16 ≤ s.fb.h) (cx cy : Nat) :
    (⟨cx, cy⟩ : Pixel) ∈ s.fb.wrap (s.sprite16 x y) ↔
      (cx < s.fb.w ∧ cy < s.fb.h) ∧ s.covers16Wrapped x y cx cy = true := by
  have hx0 : s.drawX x < s.fb.w := Nat.mod_lt _ (by omega)
  have hy0 : s.drawY y < s.fb.h := Nat.mod_lt _ (by omega)
  simp only [Framebuffer.wrap, List.mem_map, Pixel.mk.injEq, State.covers16Wrapped]
  constructor
  · rintro ⟨⟨a, b⟩, hp, rfl, rfl⟩
    obtain ⟨hxa, hax, hyb, hby⟩ := sprite16_bounds hp
    rw [mem_sprite16_iff] at hp
    simp only [State.covers16, Bool.and_eq_true, decide_eq_true_eq] at hp hxa hax hyb hby
    refine ⟨⟨Nat.mod_lt _ (by omega), Nat.mod_lt _ (by omega)⟩, ?_⟩
    have hcol := wrap_sub hx0 (show a - s.drawX x < s.fb.w by omega)
    have hrow := wrap_sub hy0 (show b - s.drawY y < s.fb.h by omega)
    rw [Nat.add_sub_cancel' hxa] at hcol
    rw [Nat.add_sub_cancel' hyb] at hrow
    rw [hcol, hrow]
    exact hp.2
  · rintro ⟨⟨hcx, hcy⟩, hbit⟩
    refine ⟨⟨_, _⟩, (mem_sprite16_iff s x y _ _).mpr ?_, wrap_add hx0 hcx, wrap_add hy0 hcy⟩
    simp only [State.covers16, Nat.add_sub_cancel_left, hbit, Nat.le_add_right, decide_true, Bool.and_self]

theorem plots_wrap_sprite16 {s : State} {x y : Nibble} (hwf : s.fb.wf = true) (h : ¬s.fits16 x y)
    (he : s.cfg.draw16Edge = .wrap) : Plots s.fb (s.fb.wrap (s.sprite16 x y)) (s.covers16Wrapped x y) where
  nodup := (State.pixels16_ok s _ _ _ _ hwf (pairRows_bytesAt_length s) (pixels16_wrap h _ he)).1
  mem_iff := by
    have hdim := ((Framebuffer.wf_iff s.fb).mp hwf).1
    exact mem_wrap_sprite16_iff (by omega) (by omega)

section
variable {s : State} {x y : Nibble} (hext : s.cfg.variant = .extended) (hreach : s.reaches 32)
include hext hreach

/-- The 16 by 16 draw on the extended machine, by what its edge policy answers. -/
theorem exec_drw16_of_pixels {ps : List Pixel}
    (hps : s.pixels16 (s.drawX x) (s.drawY y) (s.sprite16 x y) = .ok ps) :
    exec (.drw16 x y) s = .next (s.drawn (s.fb.draw ps)) := by
  rw [exec_drw16_extended hext, draw16_of_reaches x y hreach, hps, orRaise_ok]

theorem exec_drw16_of_edge_fault {f : Fault}
    (hf : s.pixels16 (s.drawX x) (s.drawY y) (s.sprite16 x y) = .error f) :
    exec (.drw16 x y) s = .fault f := by
  rw [exec_drw16_extended hext, draw16_of_reaches x y hreach, hf, orRaise_error]

end

/-- A draw of no rows (R98): the grid as it was and no collision. -/
theorem drawRows_zero (s : State) (x y : Nibble) : s.drawRows x y 0 = .next (s.drawn (s.fb, false)) :=
  drawRows_of_reaches x y (.inl rfl)

/-- Settles O50: a sprite that fits is plotted whole, whatever the edge policy; on the base machine no row is. -/
theorem draw16XorsTheSpriteThatFits : Obligations.Draw16XorsTheSpriteThatFits := by
  intro s x y
  refine ⟨fun hext hreach hfit => ?_, fun hbase => ?_⟩
  · exact exists_next_of_drawn (exec_drw16_of_pixels hext hreach (pixels16_of_fits hfit _))
      (plots_sprite16_of_fits hfit)
  · refine ⟨_, (exec_drw16_base hbase x y).trans (drawRows_zero s x y), fun _ _ => rfl, ?_, rfl,
      drawFrame_drawn s []⟩
    exact drawn_reg_flagReg s (s.fb, false)

/-- Settles O51: the three answers of the edge policy, the plotted pixels by the sprite's bits. -/
theorem draw16EdgeFollowsThePolicy : Obligations.Draw16EdgeFollowsThePolicy := by
  intro s x y hext hreach hfit
  refine ⟨fun he => ?_, fun he => ?_, fun he hwf => ?_⟩
  · exact exec_drw16_of_edge_fault hext hreach (pixels16_fault hfit _ he)
  · exact exists_next_of_drawn (exec_drw16_of_pixels hext hreach (pixels16_drop hfit _ he))
      (plots_clip_sprite16 s x y)
  · exact exists_next_of_drawn (exec_drw16_of_pixels hext hreach (pixels16_wrap hfit _ he))
      (plots_wrap_sprite16 hwf hfit he)

/-- Settles O45: each transfer raises before anything is written, at its lowest address above 0xFFF. -/
theorem bcdAndSpritesBeyondMemoryFault : Obligations.BcdAndSpritesBeyondMemoryFault := by
  intro s x y n hp
  refine ⟨exec_ldB_beyond x hp, fun hn hbeyond => ?_, fun hext hbeyond => ?_⟩
  · have hpos : 0 < n.toNat := Nat.pos_of_ne_zero fun h => hn (BitVec.eq_of_toNat_eq h)
    rw [exec_drw (.inl hn), drawRows_beyond x y hp hpos hbeyond]
  · rw [exec_drw16_extended hext, draw16_beyond x y hp hbeyond]

/-! ### The same draw again -/

/-- What a draw looks at beside the set pixels: `u` draws the sprite of `s` at the place of `s`. -/
structure SameSprite (s u : State) (x y : Nibble) : Prop where
  w : u.fb.w = s.fb.w
  h : u.fb.h = s.fb.h
  idx : u.idx = s.idx
  cfg : u.cfg = s.cfg
  mem : ∀ a, u.mem.read a = s.mem.read a
  regX : u.reg x = s.reg x
  regY : u.reg y = s.reg y

section
variable {s u : State} {x y : Nibble} (hsame : SameSprite s u x y)
include hsame

theorem SameSprite.reaches_iff (n : Nat) : u.reaches n ↔ s.reaches n := by
  rw [State.reaches, State.reaches, hsame.idx, hsame.cfg]

theorem SameSprite.drawX_eq : u.drawX x = s.drawX x := by
  rw [State.drawX, State.drawX, hsame.w, hsame.regX]

theorem SameSprite.drawY_eq : u.drawY y = s.drawY y := by
  rw [State.drawY, State.drawY, hsame.h, hsame.regY]

theorem SameSprite.bytesAt_eq (n : Nat) : u.bytesAt n = s.bytesAt n := by
  simp only [State.bytesAt, hsame.idx, hsame.mem]

theorem SameSprite.clip_eq (ps : List Pixel) : u.fb.clip ps = s.fb.clip ps := by
  simp only [Framebuffer.clip, hsame.w, hsame.h]

theorem SameSprite.wrap_eq (ps : List Pixel) : u.fb.wrap ps = s.fb.wrap ps := by
  simp only [Framebuffer.wrap, hsame.w, hsame.h]

theorem SameSprite.sprite8_eq (n : Nat) : u.sprite8 x y n = s.sprite8 x y n := by
  rw [State.sprite8, State.sprite8, hsame.drawX_eq, hsame.drawY_eq, hsame.bytesAt_eq]

theorem SameSprite.sprite16_eq : u.sprite16 x y = s.sprite16 x y := by
  rw [State.sprite16, State.sprite16, hsame.drawX_eq, hsame.drawY_eq, hsame.bytesAt_eq]

/-- The edge policy plots the same pixels again. -/
theorem SameSprite.pixels16_eq {x0 y0 : Nat} {ps qs : List Pixel} (h : s.pixels16 x0 y0 ps = .ok qs) :
    u.pixels16 x0 y0 ps = .ok qs := by
  unfold State.pixels16 at h ⊢
  rw [hsame.w, hsame.h, hsame.cfg, hsame.clip_eq, hsame.wrap_eq]
  split_ifs at h ⊢ with hfit
  · exact h
  · cases he : s.cfg.draw16Edge with
    | fault => rw [he] at h; cases h
    | drop => rw [he] at h; exact h
    | wrap => rw [he] at h; exact h

end

/-- Two flips of the same pixels are none. -/
theorem Framebuffer.get_draw_draw (fb : Framebuffer) {ps : List Pixel} (hps : ps.Nodup) (cx cy : Nat) :
    ((fb.draw ps).1.draw ps).1.get cx cy = fb.get cx cy := by
  rw [((fb.draw ps).1.draw_spec ps hps).1, (fb.draw_spec ps hps).1, Bool.xor_assoc, Bool.xor_self, Bool.xor_false]

theorem Framebuffer.draw_draw_eq {fb : Framebuffer} {ps : List Pixel} (hwf : fb.wf = true) (hps : ps.Nodup)
    (hin : ∀ p ∈ ps, p.cx < fb.w ∧ p.cy < fb.h) : ((fb.draw ps).1.draw ps).1 = fb := by
  obtain ⟨hw, hh⟩ := fb.draw_dims ps
  obtain ⟨hw', hh'⟩ := (fb.draw ps).1.draw_dims ps
  refine Framebuffer.ext_of_wf _ _ ?_ hwf (hw'.trans hw) (hh'.trans hh) (fb.get_draw_draw hps)
  exact Framebuffer.draw_wf _ _ (Framebuffer.draw_wf _ _ hwf hin) (by rwa [hw, hh])

/-- The second draw collides where the first turned a pixel on (R173). -/
theorem Framebuffer.draw_draw_hit_iff {fb : Framebuffer} {ps : List Pixel} (hps : ps.Nodup)
    (hin : ∀ p ∈ ps, p.cx < fb.w ∧ p.cy < fb.h) :
    ((fb.draw ps).1.draw ps).2 = true ↔
      ∃ cx cy, cx < fb.w ∧ cy < fb.h ∧ fb.get cx cy = false ∧ (fb.draw ps).1.get cx cy = true := by
  have hget := (fb.draw_spec ps hps).1
  rw [((fb.draw ps).1.draw_spec ps hps).2.1, List.any_eq_true]
  constructor
  · rintro ⟨⟨cx, cy⟩, hp, hset⟩
    refine ⟨cx, cy, (hin _ hp).1, (hin _ hp).2, ?_, hset⟩
    simpa [hget, hp] using hset
  · rintro ⟨cx, cy, -, -, hclear, hset⟩
    refine ⟨⟨cx, cy⟩, ?_, hset⟩
    simpa [hget, hclear] using hset

theorem flagByte_eq_one_iff (b : Bool) : flagByte b = 1#8 ↔ b = true := by
  cases b <;> decide

/-- The same pixels drawn a second time, from any state with the grid the first draw left (R173). -/
theorem redraw {s u : State} {ps : List Pixel} (hps : ps.Nodup) (hin : ∀ p ∈ ps, p.cx < s.fb.w ∧ p.cy < s.fb.h)
    (hfb : u.fb = (s.drawn (s.fb.draw ps)).fb) :
    (∀ cx cy, (u.drawn (u.fb.draw ps)).fb.get cx cy = s.fb.get cx cy) ∧
    (s.fb.wf = true → (u.drawn (u.fb.draw ps)).fb = s.fb) ∧
    ((u.drawn (u.fb.draw ps)).reg flagReg = 1#8 ↔
      ∃ cx cy, cx < s.fb.w ∧ cy < s.fb.h ∧ s.fb.get cx cy = false ∧
        (s.drawn (s.fb.draw ps)).fb.get cx cy = true) := by
  rw [drawn_reg_flagReg, flagByte_eq_one_iff, hfb]
  exact ⟨s.fb.get_draw_draw hps, fun hwf => Framebuffer.draw_draw_eq hwf hps hin,
    Framebuffer.draw_draw_hit_iff hps hin⟩

theorem reaches_of_drawRows {s t : State} {x y : Nibble} {n : Nat} (h : s.drawRows x y n = .next t) :
    s.reaches n := by
  obtain hreach | ⟨hp, hbeyond⟩ := reaches_or_beyond s n
  · exact hreach
  · cases n with
    | zero => exact .inl rfl
    | succ n =>
      rw [drawRows_beyond x y hp (Nat.succ_pos n) hbeyond] at h
      cases h

theorem reaches_of_draw16 {s t : State} {x y : Nibble} (h : s.draw16 x y = .next t) : s.reaches 32 := by
  obtain hreach | ⟨hp, hbeyond⟩ := reaches_or_beyond s 32
  · exact hreach
  · rw [draw16_beyond x y hp hbeyond] at h
    cases h

/-- Settles O49: the second DRW plots the same clipped pixels. -/
theorem drawingTwiceRestoresTheGrid : Obligations.DrawingTwiceRestoresTheGrid := by
  intro s t u x y n hrows h hfb hidx hcfg hmem hx hy
  rw [exec_drw hrows] at h
  have hreach := reaches_of_drawRows h
  rw [drawRows_of_reaches x y hreach] at h
  cases h
  obtain ⟨hw, hh⟩ := Framebuffer.draw_dims s.fb (s.fb.clip (s.sprite8 x y n.toNat))
  have hsame : SameSprite s u x y :=
    { w := hfb ▸ hw, h := hfb ▸ hh, idx := hidx, cfg := hcfg, mem := hmem, regX := hx, regY := hy }
  have hplots := plots_clip_sprite8 s x y n.toNat
  obtain ⟨hget, heq, hflag⟩ := redraw hplots.nodup (fun p hp => ((hplots.mem_iff p.cx p.cy).mp hp).1) hfb
  refine ⟨_, ?_, fun cx cy _ _ => hget cx cy, heq, hflag⟩
  rw [exec_drw (hcfg ▸ hrows), drawRows_of_reaches x y ((hsame.reaches_iff _).mpr hreach), hsame.clip_eq,
    hsame.sprite8_eq]

/-- Settles O60: whatever the edge policy let the first draw plot, it plots again. -/
theorem drawingTwice16RestoresTheGrid : Obligations.DrawingTwice16RestoresTheGrid := by
  intro s t u x y hext hwf h hfb hidx hcfg hmem hx hy
  rw [exec_drw16_extended hext] at h
  have hreach := reaches_of_draw16 h
  rw [draw16_of_reaches x y hreach] at h
  obtain ⟨ps, hps, h⟩ := (orRaise_next _ _ _).mp h
  cases h
  obtain ⟨hnodup, hin⟩ := State.pixels16_ok s _ _ _ _ hwf (pairRows_bytesAt_length s) hps
  obtain ⟨hw, hh⟩ := Framebuffer.draw_dims s.fb ps
  have hsame : SameSprite s u x y :=
    { w := hfb ▸ hw, h := hfb ▸ hh, idx := hidx, cfg := hcfg, mem := hmem, regX := hx, regY := hy }
  obtain ⟨-, heq, hflag⟩ := redraw hnodup hin hfb
  refine ⟨_, ?_, heq hwf, hflag⟩
  refine exec_drw16_of_pixels (hcfg ▸ hext) ((hsame.reaches_iff 32).mpr hreach) ?_
  rw [hsame.drawX_eq, hsame.drawY_eq, hsame.sprite16_eq]
  exact hsame.pixels16_eq hps

end Sys2Proof.Machine
end
